-- ==== Sys2Proof/Word.lean ====
section
/-! DEFINITION. The value types of the block: bytes, 16-bit words, line levels, and the two fixed
tuples of the spec, five digit positions and seven grid words (00_scope R6, R8). -/

namespace Sys2Proof

/-- An 8-bit unsigned value (R8). -/
abbrev Byte := BitVec 8

/-- A 16-bit unsigned value, one grid word (R6). -/
abbrev Word := BitVec 16

/-- A logic level: `false` is 0, `true` is 1 (R9). -/
abbrev Level := Bool

/-- Five values indexed 0..4: the digit buffer, the operand `dig`, the operand `raw` (R6, R72). -/
structure Five (α : Type) where
  e0 : α
  e1 : α
  e2 : α
  e3 : α
  e4 : α
  deriving DecidableEq, Repr

/-- Seven values indexed 0..6: the physical matrix `M[0..6]` (R6). -/
structure Seven (α : Type) where
  m0 : α
  m1 : α
  m2 : α
  m3 : α
  m4 : α
  m5 : α
  m6 : α
  deriving DecidableEq, Repr

/-- The element at an index. -/
def Five.get {α : Type} (v : Five α) (p : Fin 5) : α :=
  match p with
  | 0 => v.e0
  | 1 => v.e1
  | 2 => v.e2
  | 3 => v.e3
  | 4 => v.e4

/-- The tuple with one element replaced; no element has an index above 4 (20_memory R51). -/
def Five.set {α : Type} (v : Five α) (p : Nat) (x : α) : Five α :=
  match p with
  | 0 => { v with e0 := x }
  | 1 => { v with e1 := x }
  | 2 => { v with e2 := x }
  | 3 => { v with e3 := x }
  | 4 => { v with e4 := x }
  | _ => v

/-- Five copies of one value. -/
def Five.all {α : Type} (x : α) : Five α := ⟨x, x, x, x, x⟩

/-- The elements in index order. -/
def Five.toList {α : Type} (v : Five α) : List α := [v.e0, v.e1, v.e2, v.e3, v.e4]

/-- The tuple of a function's values. -/
def Seven.ofFn {α : Type} (f : Fin 7 → α) : Seven α := ⟨f 0, f 1, f 2, f 3, f 4, f 5, f 6⟩

/-- The element at an index. -/
def Seven.get {α : Type} (v : Seven α) (g : Fin 7) : α :=
  match g with
  | 0 => v.m0
  | 1 => v.m1
  | 2 => v.m2
  | 3 => v.m3
  | 4 => v.m4
  | 5 => v.m5
  | 6 => v.m6

/-- The elements in index order. -/
def Seven.toList {α : Type} (v : Seven α) : List α := [v.m0, v.m1, v.m2, v.m3, v.m4, v.m5, v.m6]

end Sys2Proof
end

