-- ==== Sys2Proof/Config.lean ====
section
/-! DEFINITION. What the spec leaves open, as constants without a body: no proof can learn a value of
one (00_scope R7; 92 D11, D12, D13, D17, D18; 93 part A). The tables built from them stand in
Machine/Tables.lean. -/

namespace Sys2Proof

/-- The reset value of `CTRL`, the open parameter `CTRL_RESET` (10_state R29, 92 D13). DESIGN CHOICE,
safe, log 6. -/
opaque Config.ctrlReset : BitVec 4

/-- The level the environment answers at the n-th sample, where State lists no answer for it
(00_scope R9, 92 D18). DESIGN CHOICE, log 4. -/
opaque Config.sample : Nat → Level

/-- The level the data line drives while `DIO` is UNKNOWN, after n samples in all (10_state R23,
92 D17). DESIGN CHOICE, safe, log 5. -/
opaque Config.dioAfterRead : Nat → Level

/-- The open entries of `FONT_N`: seven bits, since bit 7 of an entry is 0 (41_decoder R141, R142,
92 D12). DESIGN CHOICE, safe, log 8. -/
opaque Config.fontEntryN : Nat → BitVec 7

/-- The open entries of `FONT_I` (41_decoder R141, R142, 92 D12). DESIGN CHOICE, safe, log 8. -/
opaque Config.fontEntryI : Nat → BitVec 7

/-- The freedom rules R147 to R149 leave in the two remap tables: Machine/Tables.lean builds a pair of
tables from it, and every pair those rules allow is built from some value of it (log 9). -/
structure RemapData where
  /-- which of SG2, SG8, SG9, SG10 each of digits 0..3 uses in the normal table (R148) -/
  lineOrderN : Equiv.Perm (Fin 4)
  /-- which segment of digit 4 each grid tests in the normal table (R148, N2) -/
  symbolSeg : Equiv.Perm (Fin 7)
  /-- which segment each normal cell of digits 0..3 tests (R146) -/
  segN : Fin 7 → Fin 5 → Fin 7
  /-- which of the five used lines each digit uses in the inverted table, where I1 does not fix it -/
  lineOrderI : Equiv.Perm (Fin 5)
  /-- which segment each inverted cell tests, where I1 does not fix it -/
  segI : Fin 7 → Fin 5 → Fin 7
  deriving Inhabited

/-- The remap tables' lost data (41_decoder R146, 92 D11). DESIGN CHOICE, log 9. -/
opaque Config.remapData : RemapData

/-- The chip's minimum times in microseconds: setup, hold, pulse widths, strobe intervals and turnaround, one
for each kind of interval of 70_reset R271 and R264 and 40_transport R115 (`CHIP_TIMING`, 00_scope R7,
70_reset R262). The spec does not say between which events each minimum is measured: that every one is
measured over the interval its field names is a DESIGN CHOICE, log 19. -/
structure ChipTiming where
  /-- CLK low phase -/
  clkLow : Nat
  /-- CLK high phase -/
  clkHigh : Nat
  /-- DIO set before a write slot's CLK rise -/
  dioSetup : Nat
  /-- DIO held after a write slot's CLK rise -/
  dioHold : Nat
  /-- STB falling to the first CLK fall -/
  stbFallToClkFall : Nat
  /-- last CLK rise of a WR8 or WR16 to STB rising -/
  clkRiseToStbRiseAfterWrite : Nat
  /-- last CLK rise of an RD8 to STB rising -/
  clkRiseToStbRiseAfterRead : Nat
  /-- STB high between two transactions -/
  stbHigh : Nat
  /-- last CLK rise of a WR8 to the first CLK fall of a following RD8 or WR8 -/
  byteGap : Nat
  /-- the wait after the read command, measured to the first read slot's CLK fall: from the last CLK rise of
  0x42 (70_reset R264) -/
  readTurnaroundToClkFall : Nat
  /-- the wait after the read command, measured to the first sample: from the last CLK rise of 0x42 (70_reset
  R264) -/
  readTurnaround : Nat
  deriving DecidableEq, Repr, Inhabited

/-- The chip's timing, an open parameter (00_scope R7, 70_reset R262). DESIGN CHOICE, log 19. -/
opaque Config.chipTiming : ChipTiming

end Sys2Proof
end

