-- ==== Sys2Proof/Syntax.lean ====
section
/-! DEFINITION. The syntax: one constructor of `Instr` for each row of spec/opcode_table.json, the 17
host operations of 30_encoding R73 with the operand types of R72, then the 7 wire commands of R80 to
R84; the request form in which the host presents one; and the pseudo-instructions of R91. -/

namespace Sys2Proof

/-- The operand `sel`: which of two tables, NORMAL = 0, INVERTED = 1 (30_encoding R72). -/
inductive Sel where
  | normal
  | inverted
  deriving DecidableEq, Repr

/-- One operation (30_encoding R73) or one wire command (R80). -/
inductive Instr where
  /-- BEGIN, OP 0x01 -/
  | beginTxn
  /-- END, OP 0x02 -/
  | endTxn
  /-- WR8, OP 0x03 -/
  | wr8 (v8 : Byte)
  /-- WR16, OP 0x04 -/
  | wr16 (v16 : Word)
  /-- RD8, OP 0x05 -/
  | rd8
  /-- SETBRIGHT, OP 0x08 -/
  | setbright (level : Byte) (on : Bool)
  /-- SETFONT, OP 0x09 -/
  | setfont (sel : Sel)
  /-- SETFILTER, OP 0x0A -/
  | setfilter (sel : Sel)
  /-- DIGIT, OP 0x10 -/
  | digit (code pos : Byte)
  /-- DIGITS, OP 0x11 -/
  | digits (codes : List Byte) (pos : Byte)
  /-- SEG, OP 0x12 -/
  | seg (mask pos : Byte)
  /-- SEGS, OP 0x13 -/
  | segs (masks : List Byte) (pos : Byte)
  /-- CLEAR, OP 0x14 -/
  | clear
  /-- GETBUTTONS, OP 0x18 -/
  | getbuttons
  /-- FONT, OP 0x1C -/
  | font (sel : Sel) (code : Byte)
  /-- REMAP, OP 0x1D -/
  | remap (sel : Sel) (dig : Five Byte)
  /-- KEYDECODE, OP 0x1E -/
  | keydecode (raw : Five Byte)
  /-- DM_6G12S, wire byte 0x02 -/
  | dm6g12s
  /-- DM_7G11S, wire byte 0x03 -/
  | dm7g11s
  /-- DATA_WRITE_INC, wire byte 0x40 -/
  | dataWriteInc
  /-- DATA_READ, wire byte 0x42 -/
  | dataRead
  /-- DATA_WRITE_FIXED, wire byte 0x44 -/
  | dataWriteFixed
  /-- DISPLAY_CONTROL, wire bytes 0x80 to 0x8F -/
  | displayControl (ctrl : BitVec 4)
  /-- ADDRESS_SET, wire byte 0xC0 -/
  | addressSet
  deriving DecidableEq, Repr

/-- The block's two encoded interfaces (30_encoding R70). -/
inductive Port where
  | hostOp
  | wireCmd
  deriving DecidableEq, Repr

/-- One entry of a host program as it is presented: the interface whose encoding it uses and its bytes
in the listing form of 30_encoding R71. DESIGN CHOICE, safe, log 1. -/
structure Request where
  port : Port
  bytes : List Byte
  deriving DecidableEq, Repr

/-- The pseudo-instruction `cmd <b>` (30_encoding R91). -/
def Instr.cmd (b : Byte) : List Instr := [.beginTxn, .wr8 b, .endTxn]

/-- The pseudo-instruction `refresh` (30_encoding R91). -/
def Instr.refresh : List Instr := [.segs [] 0]

/-- The pseudo-instruction `blank <pos>` (30_encoding R91). -/
def Instr.blank (pos : Byte) : List Instr := [.digit 16 pos]

end Sys2Proof
end

