-- ==== Sys2Proof/WellFormed.lean ====
section
/-! DEFINITION. Which operations have an encoding. The operand types already fix every shape of
30_encoding R72; what remains is R71's length byte, which holds a list's length up to 255 (log 15). -/

namespace Sys2Proof

/-- The list fits the length byte of 30_encoding R71. -/
def listFits (l : List Byte) : Bool := l.length < 256

/-- The operation can be written in the listing form of 30_encoding R71. -/
def Instr.wellFormed : Instr → Bool
  | .digits codes _ => listFits codes
  | .segs masks _ => listFits masks
  | .beginTxn | .endTxn | .wr8 _ | .wr16 _ | .rd8 | .setbright _ _ | .setfont _ | .setfilter _
  | .digit _ _ | .seg _ _ | .clear | .getbuttons | .font _ _ | .remap _ _ | .keydecode _
  | .dm6g12s | .dm7g11s | .dataWriteInc | .dataRead | .dataWriteFixed | .displayControl _
  | .addressSet => true

end Sys2Proof
end

