-- ==== Sys2Proof/Decode.lean ====
section
/-! DEFINITION. The decoder of both interfaces, total on any bytes and refusing by name, and after it
the encoder (30_encoding R71 to R75, R80 to R84). -/

namespace Sys2Proof

/-- Why a request spells no operation (30_encoding R74): it never reaches the machine. -/
inductive DecodeError where
  /-- no byte at all -/
  | empty
  /-- the first byte does not fit the 5-bit field `OP` (log 3) -/
  | notAnOpByte (b : Byte)
  /-- an `OP` value that R74 reserves -/
  | reservedOp (op : Byte)
  /-- an operand tuple of the wrong shape for its `OP`: operands missing or bytes left over -/
  | wrongShape
  /-- a `sel` other than 00 and 01 -/
  | badSel (b : Byte)
  /-- an `on` other than 00 and 01 -/
  | badOn (b : Byte)
  /-- a wire byte that is no row of the opcode table (91 N9) -/
  | unknownWireByte (b : Byte)
  deriving DecidableEq, Repr

/-- What a decoder answers: a value and the bytes after it, or the reason it refuses. -/
abbrev Decoded (α : Type) := Except DecodeError (α × List Byte)

/-- One scalar byte. -/
def readByte : List Byte → Decoded Byte
  | b :: rest => .ok (b, rest)
  | [] => .error .wrongShape

/-- `v16`: two bytes, low byte first (R71). -/
def readWord : List Byte → Decoded Word
  | lo :: hi :: rest => .ok (hi ++ lo, rest)
  | _ => .error .wrongShape

/-- `sel`: one byte, 00 NORMAL or 01 INVERTED (R71, R72). -/
def readSel : List Byte → Decoded Sel
  | b :: rest =>
    if b = 0 then .ok (.normal, rest) else if b = 1 then .ok (.inverted, rest) else .error (.badSel b)
  | [] => .error .wrongShape

/-- `on`: one byte, 00 or 01 (R71, R72). -/
def readOn : List Byte → Decoded Bool
  | b :: rest =>
    if b = 0 then .ok (false, rest) else if b = 1 then .ok (true, rest) else .error (.badOn b)
  | [] => .error .wrongShape

/-- A fixed tuple of five bytes, with no length byte (R71). -/
def readFive : List Byte → Decoded (Five Byte)
  | a :: b :: c :: d :: e :: rest => .ok (⟨a, b, c, d, e⟩, rest)
  | _ => .error .wrongShape

/-- A list: a length byte followed by its elements (R71). -/
def readList : List Byte → Decoded (List Byte)
  | n :: rest =>
    if rest.length < n.toNat then .error .wrongShape
    else .ok (rest.take n.toNat, rest.drop n.toNat)
  | [] => .error .wrongShape

/-- Read one operand and make the operation of it. -/
def one {α : Type} (read : List Byte → Decoded α) (make : α → Instr) (bs : List Byte) : Decoded Instr :=
  match read bs with
  | .ok (a, rest) => .ok (make a, rest)
  | .error e => .error e

/-- Read two operands in order and make the operation of them. -/
def two {α β : Type} (readA : List Byte → Decoded α) (readB : List Byte → Decoded β)
    (make : α → β → Instr) (bs : List Byte) : Decoded Instr :=
  match readA bs with
  | .ok (a, rest) => one readB (make a) rest
  | .error e => .error e

/-- The operands of the operation that `OP` selects (R72, R73); every other value is reserved (R74). -/
def decodeOperands (op : Byte) (rest : List Byte) : Decoded Instr :=
  match op.toNat with
  | 0x01 => .ok (.beginTxn, rest)
  | 0x02 => .ok (.endTxn, rest)
  | 0x03 => one readByte .wr8 rest
  | 0x04 => one readWord .wr16 rest
  | 0x05 => .ok (.rd8, rest)
  | 0x08 => two readByte readOn .setbright rest
  | 0x09 => one readSel .setfont rest
  | 0x0A => one readSel .setfilter rest
  | 0x10 => two readByte readByte .digit rest
  | 0x11 => two readList readByte .digits rest
  | 0x12 => two readByte readByte .seg rest
  | 0x13 => two readList readByte .segs rest
  | 0x14 => .ok (.clear, rest)
  | 0x18 => .ok (.getbuttons, rest)
  | 0x1C => two readSel readByte .font rest
  | 0x1D => two readSel readFive .remap rest
  | 0x1E => one readFive .keydecode rest
  | _ => .error (.reservedOp op)

/-- One host operation at the head of a listing, and the bytes after it (R71). The three bits above
`OP[4:0]` of the OP byte are 0 (log 3). -/
def decodeOp : List Byte → Decoded Instr
  | [] => .error .empty
  | b :: rest => if b.toNat < 0x20 then decodeOperands b rest else .error (.notAnOpByte b)

/-- One wire command byte (R80 to R84); bits 7:4 = 1000 carry `CTRL` in bits 3:0 (R83). -/
def decodeWire : List Byte → Decoded Instr
  | [] => .error .empty
  | b :: rest =>
    if b.toNat / 16 = 8 then .ok (.displayControl (b.setWidth 4), rest)
    else
      match b.toNat with
      | 0x02 => .ok (.dm6g12s, rest)
      | 0x03 => .ok (.dm7g11s, rest)
      | 0x40 => .ok (.dataWriteInc, rest)
      | 0x42 => .ok (.dataRead, rest)
      | 0x44 => .ok (.dataWriteFixed, rest)
      | 0xC0 => .ok (.addressSet, rest)
      | _ => .error (.unknownWireByte b)

/-- The bytes of one request through the decoder of its interface. -/
def decodeAt (p : Port) (bs : List Byte) : Decoded Instr :=
  match p with
  | .hostOp => decodeOp bs
  | .wireCmd => decodeWire bs

/-- A request is one whole operation: bytes left over are a tuple of the wrong shape (R74). -/
def decodeRequest (r : Request) : Except DecodeError Instr :=
  match decodeAt r.port r.bytes with
  | .ok (i, []) => .ok i
  | .ok (_, _ :: _) => .error .wrongShape
  | .error e => .error e

/-- A listing of several host operations, one after another (R71); `fuel` bounds their number. -/
def decodeListing (fuel : Nat) (bs : List Byte) : Except DecodeError (List Instr) :=
  match fuel, bs with
  | _, [] => .ok []
  | 0, _ :: _ => .error .wrongShape
  | fuel + 1, b :: rest =>
    match decodeOp (b :: rest) with
    | .error e => .error e
    | .ok (i, after) =>
      match decodeListing fuel after with
      | .error e => .error e
      | .ok is => .ok (i :: is)

/-- The byte of `sel` (R71). -/
def selByte : Sel → Byte
  | .normal => 0
  | .inverted => 1

/-- The byte of `on` (R71). -/
def onByte (b : Bool) : Byte := if b then 1 else 0

/-- A list's length byte and elements (R71). -/
def listBytes (l : List Byte) : List Byte := BitVec.ofNat 8 l.length :: l

/-- The listing bytes of an operation, or the wire byte of a command (R71, R73, R80 to R84). -/
def encode : Instr → Request
  | .beginTxn => ⟨.hostOp, [0x01]⟩
  | .endTxn => ⟨.hostOp, [0x02]⟩
  | .wr8 v => ⟨.hostOp, [0x03, v]⟩
  | .wr16 v => ⟨.hostOp, [0x04, v.extractLsb' 0 8, v.extractLsb' 8 8]⟩
  | .rd8 => ⟨.hostOp, [0x05]⟩
  | .setbright level on => ⟨.hostOp, [0x08, level, onByte on]⟩
  | .setfont sel => ⟨.hostOp, [0x09, selByte sel]⟩
  | .setfilter sel => ⟨.hostOp, [0x0A, selByte sel]⟩
  | .digit code pos => ⟨.hostOp, [0x10, code, pos]⟩
  | .digits codes pos => ⟨.hostOp, 0x11 :: (listBytes codes ++ [pos])⟩
  | .seg mask pos => ⟨.hostOp, [0x12, mask, pos]⟩
  | .segs masks pos => ⟨.hostOp, 0x13 :: (listBytes masks ++ [pos])⟩
  | .clear => ⟨.hostOp, [0x14]⟩
  | .getbuttons => ⟨.hostOp, [0x18]⟩
  | .font sel code => ⟨.hostOp, [0x1C, selByte sel, code]⟩
  | .remap sel dig => ⟨.hostOp, 0x1D :: selByte sel :: dig.toList⟩
  | .keydecode raw => ⟨.hostOp, 0x1E :: raw.toList⟩
  | .dm6g12s => ⟨.wireCmd, [0x02]⟩
  | .dm7g11s => ⟨.wireCmd, [0x03]⟩
  | .dataWriteInc => ⟨.wireCmd, [0x40]⟩
  | .dataRead => ⟨.wireCmd, [0x42]⟩
  | .dataWriteFixed => ⟨.wireCmd, [0x44]⟩
  | .displayControl ctrl => ⟨.wireCmd, [0x80 ||| ctrl.setWidth 8]⟩
  | .addressSet => ⟨.wireCmd, [0xC0]⟩

/-- The longest host operation: OP, a length byte of 255, 255 elements, a position (R71). -/
def maxRequestBytes : Nat := 258

/-- The bytes of a number of `nbits` bits, least significant byte first. -/
def tableWordBytes (nbits w : Nat) : List Byte :=
  (List.range ((nbits + 7) / 8)).map fun k => BitVec.ofNat 8 (w / 256 ^ k)

/-- The request that a word of the opcode table stands for, with operand bytes of zeros above `nbits`:
a host operation where the bytes spell one, else a wire command (log 2). -/
def tableRequest (nbits w : Nat) : Request :=
  let bs := tableWordBytes nbits w ++ List.replicate maxRequestBytes 0
  match decodeOp bs with
  | .ok (_, rest) => ⟨.hostOp, bs.take (bs.length - rest.length)⟩
  | .error _ =>
    match decodeWire bs with
    | .ok _ => ⟨.wireCmd, bs.take 1⟩
    | .error _ => ⟨.hostOp, tableWordBytes nbits w⟩

/-- The operation the decoder reads from a word of spec/opcode_table.json. -/
def decodeTableWord (nbits w : Nat) : Option Instr :=
  match decodeRequest (tableRequest nbits w) with
  | .ok i => some i
  | .error _ => none

end Sys2Proof
end

