-- ==== Sys2Proof/Machine/State.lean ====
section
/-! DEFINITION. The state as plain data (10_state R20 to R36), the events and host results that a run
shows (00_scope R9, R10), the reasons a step can stop, and the state after reset (70_reset R250). -/

namespace Sys2Proof.Machine

/-- The three bus lines (00_scope R9). -/
inductive Line where
  | stb
  | clk
  | dio
  deriving DecidableEq, Repr

/-- The data line's direction (10_state R24). -/
inductive Dir where
  /-- output -/
  | out
  /-- input with pull-up -/
  | inPu
  deriving DecidableEq, Repr

/-- The data line's output latch: a level, or `UNKNOWN` after a read (10_state R23). -/
inductive Dio where
  | known (lv : Level)
  | unknown
  deriving DecidableEq, Repr

/-- One event of the trace (00_scope R9, R10). Only the data line has a mode. -/
inductive Event where
  | drive (l : Line) (lv : Level)
  | mode (m : Dir)
  | wait (k : Nat)
  | sample (b : Level)
  deriving DecidableEq, Repr

/-- What an operation returns to the host (30_encoding R73): 8 bits, 32 bits, or seven words. -/
inductive HostResult where
  | byte (v : Byte)
  | keys (v : BitVec 32)
  | matrix (m : Seven Word)
  deriving DecidableEq, Repr

/-- The causes of a recorded fault (60_exceptions R221). -/
inductive FaultCode where
  | pos
  | len
  | code
  | level
  | frame
  deriving DecidableEq, Repr

/-- The register `FAULT` (10_state R33): `FV` is its bit 3, `FCODE` its bits 2:0. -/
structure FaultReg where
  fv : Bool
  fcode : BitVec 3
  deriving DecidableEq, Repr

/-- The machine between two operations (10_state R20, R36), with the observables of 00_scope R10 and
two fields of the model's own for the environment's draws. -/
structure State where
  /-- `STB` (R21) -/
  stb : Level
  /-- `CLK` (R22) -/
  clk : Level
  /-- `DIO` (R23) -/
  dio : Dio
  /-- `DIR` (R24) -/
  dir : Dir
  /-- `DIG[0..4]` (R26) -/
  dig : Five Byte
  /-- `CTRL` = {PWR, LEVEL} (R29) -/
  ctrl : BitVec 4
  /-- `FSEL` (R30) -/
  fsel : Sel
  /-- `RSEL` (R31) -/
  rsel : Sel
  /-- `BIT_DELAY` in microseconds (R32) -/
  bitDelay : Nat
  /-- `FAULT` (R33) -/
  fault : FaultReg
  /-- `pc`, the index of the next operation of the host program (R36) -/
  pc : Nat
  /-- the host program (R36), in the form it is presented in (log 11) -/
  program : List Request
  /-- the events emitted since reset, oldest first (00_scope R10) -/
  trace : List Event
  /-- the results returned since reset, oldest first (00_scope R10) -/
  results : List HostResult
  /-- the model's own: levels the environment presents at the next samples (log 4) -/
  answers : List Level
  /-- the model's own: how many samples were taken, the free values' argument (log 4) -/
  draws : Nat
  deriving DecidableEq, Repr

/-- Why the model's step faults. The spec's own faults are recorded in `FAULT` and are next states. -/
inductive Fault where
  /-- raised by `step` alone, where `pc` lies past the end of the host program: 10_state R36 gives that
  no meaning, and no step from reset leads there; safe (log 13) -/
  | pcBeyondProgram
  deriving DecidableEq, Repr

/-- Why the model's step refuses. -/
inductive Refusal where
  /-- an instruction without a meaning: raised by `exec`'s refused arms alone, of which none is left;
  safe -/
  | notModelled (mnemonic : String)
  /-- raised by `step` alone, where the host presents bytes that spell no operation: 30_encoding R74
  refuses them by name before they reach the machine; safe (log 14) -/
  | undecodable (reason : DecodeError)
  deriving DecidableEq, Repr

/-- The machine after a reset with the argument `BIT_DELAY` (70_reset R250); no operation presented yet
and no event emitted (R251, R252). `CTRL` holds the open value `CTRL_RESET` (log 6). -/
def State.resetWith (bitDelay : Nat) : State where
  stb := true
  clk := true
  dio := .known true
  dir := .out
  dig := Five.all 0
  ctrl := Config.ctrlReset
  fsel := .normal
  rsel := .normal
  bitDelay := bitDelay
  fault := ⟨false, 0⟩
  pc := 0
  program := []
  trace := []
  results := []
  answers := []
  draws := 0

/-- The machine after reset with the default `BIT_DELAY` of 5 microseconds (70_reset R250, log 10). -/
def State.reset : State := State.resetWith 5

end Sys2Proof.Machine
end

