-- ==== Sys2Proof/Machine/Operands.lean ====
section
/-! DEFINITION. Operand assembly (30_encoding R86), the wire command bytes (R80 to R84), bit order on
the wire (20_memory R53), and the names of segments and key lines (10_state R28, 42_sequencer R192). -/

namespace Sys2Proof.Machine

/-- `CTRL <- (on << 3) | level[2:0]` (30_encoding R86, 42_sequencer R171). -/
def controlValue (level : Byte) (on : Bool) : BitVec 4 :=
  ((BitVec.ofBool on).setWidth 4 <<< 3) ||| (level.extractLsb' 0 3).setWidth 4

/-- The field `CTRL.PWR` (10_state R29). -/
def State.pwr (s : State) : Bool := s.ctrl.getLsbD 3

/-- The field `CTRL.LEVEL` (10_state R29). -/
def State.level (s : State) : BitVec 3 := s.ctrl.extractLsb' 0 3

/-- The display-control byte `0x80 | zext_8(CTRL)` (30_encoding R83). -/
def displayControlByte (ctrl : BitVec 4) : Byte := 0x80 ||| ctrl.setWidth 8

/-- The display-mode byte `0x00 + submode` (30_encoding R81). -/
def displayModeByte (submode : Byte) : Byte := 0x00 ||| submode

/-- Submode 2, 6 grids and 12 segments (30_encoding R81). -/
def submode6g12s : Byte := 2

/-- Submode 3, 7 grids and 11 segments, the only one the block emits (30_encoding R81). -/
def submode7g11s : Byte := 3

/-- Data command: write with address increment (30_encoding R82). -/
def dataWriteIncByte : Byte := 0x40

/-- Data command: read (30_encoding R82). -/
def dataReadByte : Byte := 0x42

/-- Data command: write at a fixed address, 0x40 + 4 (30_encoding R82, 90_conflicts C3). -/
def dataWriteFixedByte : Byte := dataWriteIncByte + 4

/-- Address set, address 0 (30_encoding R84). -/
def addressSetByte : Byte := 0xC0

/-- The four classes of wire command, told apart by bits 7:6 (30_encoding R80). -/
inductive WireClass where
  | displayMode
  | dataCommand
  | displayControl
  | addressSet
  deriving DecidableEq, Repr

/-- The class of a wire command byte (30_encoding R80). -/
def wireClass (b : Byte) : WireClass :=
  match b.getLsbD 7, b.getLsbD 6 with
  | false, false => .displayMode
  | false, true => .dataCommand
  | true, false => .displayControl
  | true, true => .addressSet

/-- The segment line SGn as a bit of a grid word, `1 << (n - 1)` (41_decoder R151). -/
def segLineBit (n : Nat) : Word := 1#16 <<< (n - 1)

/-- The bits of a value in wire order, bit 0 first (20_memory R53). -/
def wireBits {n : Nat} (v : BitVec n) : List Level := (List.range n).map v.getLsbD

/-- Segment letters (10_state R28). -/
inductive Segment where
  | A
  | B
  | C
  | D
  | E
  | F
  | G
  deriving DecidableEq, Repr

/-- A segment's index, its bit in a mask (10_state R28, 92 D9; log 20). -/
def Segment.index : Segment → Fin 7
  | .A => 0
  | .B => 1
  | .C => 2
  | .D => 3
  | .E => 4
  | .F => 5
  | .G => 6

/-- The two key lines (42_sequencer R192). -/
inductive KeyLine where
  | K1
  | K2
  deriving DecidableEq, Repr

/-- A raw byte reports a key of the line, in either row of its column (42_sequencer R191, R192). -/
def KeyLine.pressed : KeyLine → Byte → Bool
  | .K1, raw => raw.getLsbD 0 || raw.getLsbD 3
  | .K2, raw => raw.getLsbD 1 || raw.getLsbD 4

/-- The result bit of a key line at a column: K1 in the low half, K2 in the high (42_sequencer R191,
R192). -/
def KeyLine.resultBit : KeyLine → Nat → Nat
  | .K1, i => 2 * i
  | .K2, i => 16 + 2 * i

/-- What a font code stands for (41_decoder R143); no rule depends on it. -/
inductive CodeClass where
  | digit
  | hexLetter
  | symbol
  deriving DecidableEq, Repr

/-- The class of a font code in 0..20 (41_decoder R143). -/
def codeClass (code : Byte) : Option CodeClass :=
  if code.toNat ≤ 9 then some .digit
  else if code.toNat ≤ 15 then some .hexLetter
  else if code.toNat ≤ 20 then some .symbol
  else none

end Sys2Proof.Machine
end

