-- ==== Sys2Proof/Machine/Flags.lean ====
section
/-! DEFINITION. The block has no condition flags (10_state R37). Its one status register is `FAULT`:
this file holds the checks that set it, their order, and the register's encoding (60_exceptions R221,
R224; 10_state R33). A check answers the fault it finds, if any. -/

namespace Sys2Proof.Machine

/-- The 3-bit code of a cause (60_exceptions R221). -/
def FaultCode.bits : FaultCode → BitVec 3
  | .pos => 1
  | .len => 2
  | .code => 3
  | .level => 4
  | .frame => 5

/-- `FAULT` as the host reads it: `FV` in bit 3, `FCODE` in bits 2:0 (10_state R33). -/
def FaultReg.word (f : FaultReg) : BitVec 4 := BitVec.ofBool f.fv ++ f.fcode

/-- `IN_TXN`: inside a transaction exactly when `STB` = 0 (10_state R25). -/
def State.inTxn (s : State) : Bool := !s.stb

/-- WR8, WR16, RD8 and END need `STB` = 0 (40_transport R100). -/
def State.checkInside (s : State) : Option FaultCode := if s.inTxn then none else some .frame

/-- BEGIN, the display operations and GETBUTTONS need `STB` = 1 (40_transport R100, 42_sequencer R170). -/
def State.checkOutside (s : State) : Option FaultCode := if s.inTxn then some .frame else none

/-- F_POS: `pos` > 4 (60_exceptions R221). -/
def checkPos (pos : Byte) : Option FaultCode := if pos.toNat > 4 then some .pos else none

/-- F_LEN: `pos + len` > 5 in unbounded arithmetic (60_exceptions R221, 00_scope R8). -/
def checkLen (pos : Byte) (len : Nat) : Option FaultCode := if pos.toNat + len > 5 then some .len else none

/-- F_CODE: `code` > 20 (60_exceptions R221). -/
def checkCode (code : Byte) : Option FaultCode := if code.toNat > 20 then some .code else none

/-- F_CODE for a list: some code > 20 (42_sequencer R176). -/
def checkCodes (codes : List Byte) : Option FaultCode :=
  if codes.any (fun c => decide (c.toNat > 20)) then some .code else none

/-- F_LEVEL: `level` > 7 (60_exceptions R221). -/
def checkLevel (level : Byte) : Option FaultCode := if level.toNat > 7 then some .level else none

/-- The first check that fails, in the order listed (60_exceptions R224). -/
def firstFault : List (Option FaultCode) → Option FaultCode
  | [] => none
  | some c :: _ => some c
  | none :: checks => firstFault checks

end Sys2Proof.Machine
end

