-- ==== Sys2Proof/Machine/Ops.lean ====
section
/-! DEFINITION. The primitives of 00_scope R9 as operations on the state, fault entry (60_exceptions
R222), the reset that is the only way out of a fault (R226, 70_reset R253), the shape every operation
shares (R223, 10_state R36), and what the host presents next. -/

namespace Sys2Proof.Machine

/-- `emit Drive(L, lv)`: the line's state element takes the level, and the event joins the trace. -/
def State.drive (s : State) (l : Line) (lv : Level) : State :=
  match l with
  | .stb => { s with stb := lv, trace := s.trace ++ [.drive .stb lv] }
  | .clk => { s with clk := lv, trace := s.trace ++ [.drive .clk lv] }
  | .dio => { s with dio := .known lv, trace := s.trace ++ [.drive .dio lv] }

/-- `emit Mode(DIO, m)`. -/
def State.setMode (s : State) (m : Dir) : State :=
  { s with dir := m, trace := s.trace ++ [.mode m] }

/-- `emit Wait(k)`: k bit-delays; the lines hold their levels. -/
def State.wait (s : State) (k : Nat) : State := { s with trace := s.trace ++ [.wait k] }

/-- The level that `Sample(DIO)` answers next: the environment's, a free value (92 D18, log 4). -/
def State.sampleLevel (s : State) : Level :=
  match s.answers with
  | b :: _ => b
  | [] => Config.sample s.draws

/-- `Sample(DIO)`: the event joins the trace, and the next sample is a fresh draw. -/
def State.sampled (s : State) : State :=
  { s with
    trace := s.trace ++ [.sample s.sampleLevel]
    answers := s.answers.tail
    draws := s.draws + 1 }

/-- `DIO <- UNKNOWN` (10_state R23). -/
def State.forgetDio (s : State) : State := { s with dio := .unknown }

/-- The level the data line's latch drives; while `DIO` is UNKNOWN a free value (10_state R23, log 5). -/
def State.dioLevel (s : State) : Level :=
  match s.dio with
  | .known lv => lv
  | .unknown => Config.dioAfterRead s.draws

/-- What the block drives on DIO: nothing while `DIR` = IN_PU (10_state R24). -/
def State.dioDriven (s : State) : Option Level :=
  match s.dir with
  | .out => some s.dioLevel
  | .inPu => none

/-- `DIG[pos] <- v`. -/
def State.setDig (s : State) (pos : Nat) (v : Byte) : State := { s with dig := s.dig.set pos v }

/-- A digit buffer with `vs[j]` at position `pos + j` for every index j of the list, j rising. -/
def writeRun (dig : Five Byte) (pos : Nat) (vs : List Byte) : Five Byte :=
  (vs.zipIdx pos).foldl (fun d x => d.set x.2 x.1) dig

/-- `DIG[pos + j] <- vs[j]` for every index j of the list. -/
def State.setDigs (s : State) (pos : Nat) (vs : List Byte) : State :=
  { s with dig := writeRun s.dig pos vs }

/-- `CTRL <- v`. -/
def State.setCtrl (s : State) (v : BitVec 4) : State := { s with ctrl := v }

/-- `FSEL <- sel`. -/
def State.setFsel (s : State) (sel : Sel) : State := { s with fsel := sel }

/-- `RSEL <- sel`. -/
def State.setRsel (s : State) (sel : Sel) : State := { s with rsel := sel }

/-- `result v`. -/
def State.giveResult (s : State) (r : HostResult) : State := { s with results := s.results ++ [r] }

/-- A completed operation advances `pc` by 1 (10_state R36). -/
def State.advance (s : State) : State := { s with pc := s.pc + 1 }

/-- Fault entry, `raise Fault(code)`: `FAULT` is written and nothing else (60_exceptions R222). -/
def State.raiseFault (s : State) (c : FaultCode) : State := { s with fault := ⟨true, c.bits⟩ }

/-- Reset between two operations: the block has no return from a fault (60_exceptions R226), and this
alone clears `FAULT` and sets `BIT_DELAY` (70_reset R250, R253, R254). The host's program and the
environment are not the block's and stay (log 17). -/
def State.applyReset (s : State) (bitDelay : Nat) : State :=
  { State.resetWith bitDelay with program := s.program, answers := s.answers, draws := s.draws }

/-- The host presents a program to a machine (10_state R36). -/
def State.present (s : State) (program : List Request) : State := { s with program := program }

/-- The shape of every operation. While `FV` = 1 it is not started (60_exceptions R223); a failed check
raises its fault before any write or event (R222, 42_sequencer R170); else the body runs and `pc`
advances (10_state R36). -/
def State.perform (s : State) (check : Option FaultCode) (body : State → State) :
    Host.Outcome State Fault Refusal :=
  if s.fault.fv then .next s
  else
    match check with
    | some c => .next (s.raiseFault c)
    | none => .next (body s).advance

/-- What the host has for the machine at a step. -/
inductive Presented where
  /-- halted, or nothing presented: the machine waits -/
  | nothing
  /-- the next operation's request -/
  | request (r : Request)
  /-- `pc` lies past the program's end, which 10_state R36 gives no meaning -/
  | beyond
  deriving DecidableEq, Repr

/-- The request at `pc` (10_state R36): none while halted (60_exceptions R223) and none at the end of
the program, where the block waits for an operation (70_reset R252, R258; log 12). -/
def State.presented (s : State) : Presented :=
  if s.fault.fv then .nothing
  else
    match s.program[s.pc]? with
    | some r => .request r
    | none => if s.pc = s.program.length then .nothing else .beyond

/-- The program with one entry replaced, or appended where the list ends there; a gap before it is
filled with requests that spell no operation. -/
def putAt (program : List Request) (pc : Nat) (r : Request) : List Request :=
  match program, pc with
  | [], 0 => [r]
  | _ :: rest, 0 => r :: rest
  | [], n + 1 => ⟨.hostOp, []⟩ :: putAt [] n r
  | q :: rest, n + 1 => q :: putAt rest n r

end Sys2Proof.Machine
end

