-- ==== Sys2Proof/Machine/Configure.lean ====
section
/-! DEFINITION. The configuration operations SETBRIGHT, SETFONT and SETFILTER (42_sequencer R171 to
R173): one register each, no bus event. -/

namespace Sys2Proof.Machine

/-- SETBRIGHT (R171). -/
def execSetbright (level : Byte) (on : Bool) (s : State) : Host.Outcome State Fault Refusal :=
  s.perform (checkLevel level) fun t => t.setCtrl (controlValue level on)

/-- SETFONT (R172). -/
def execSetfont (sel : Sel) (s : State) : Host.Outcome State Fault Refusal :=
  s.perform none fun t => t.setFsel sel

/-- SETFILTER (R173). -/
def execSetfilter (sel : Sel) (s : State) : Host.Outcome State Fault Refusal :=
  s.perform none fun t => t.setRsel sel

end Sys2Proof.Machine
end

