-- ==== Sys2Proof/Machine/Tables.lean ====
section
/-! DEFINITION. The four constant tables (10_state R34): the two fonts (41_decoder R140 to R142) and the
two remap tables (R146 to R149), built from the open constants of Config so that exactly what the rules
fix is fixed. -/

namespace Sys2Proof.Machine

/-- A font: code 0 is 0x3F, code 16 is 0x00, every other entry is open with bit 7 = 0 (R141, R142;
log 8). -/
def fontTable (entry : Nat → BitVec 7) (code : Nat) : Byte :=
  if code = 0 then 0x3F else if code = 16 then 0x00 else (entry code).setWidth 8

/-- `FONT_N` or `FONT_I` at a code of 0..20. -/
def fontLookup (sel : Sel) (code : Byte) : Byte :=
  match sel with
  | .normal => fontTable Config.fontEntryN code.toNat
  | .inverted => fontTable Config.fontEntryI code.toNat

/-- The blank code (41_decoder R142, R143). -/
def blankCode : Byte := 16

/-- One remap cell: the segment tested and the number of the segment line it drives (R146). -/
structure Cell where
  seg : Fin 7
  line : Nat
  deriving DecidableEq, Repr

/-- A remap table: a cell for each grid and digit, 35 in all (R146). -/
abbrev RemapTable := Fin 7 → Fin 5 → Cell

/-- The five used segment lines SG2, SG3, SG8, SG9, SG10 (R147 WF1). -/
def usedLine : Fin 5 → Nat
  | 0 => 2
  | 1 => 3
  | 2 => 8
  | 3 => 9
  | 4 => 10

/-- The used lines less SG3, as indices of `usedLine`: what digits 0..3 of `TAB_N` share out (R148). -/
def outerLine : Fin 4 → Fin 5
  | 0 => 0
  | 1 => 2
  | 2 => 3
  | 3 => 4

/-- `LINE_N` as an index of `usedLine`: digit 4 is on SG3 (R148 N1), digits 0..3 on the other four. -/
def lineIndexN (d : RemapData) : Fin 5 → Fin 5
  | 0 => outerLine (d.lineOrderN 0)
  | 1 => outerLine (d.lineOrderN 1)
  | 2 => outerLine (d.lineOrderN 2)
  | 3 => outerLine (d.lineOrderN 3)
  | 4 => 1

/-- The segment a normal cell tests: digit 4's seven cells test seven different ones (R148 N2). -/
def segmentN (d : RemapData) (g : Fin 7) (p : Fin 5) : Fin 7 :=
  if p = 4 then d.symbolSeg g else d.segN g p

/-- `TAB_N` (R147, R148). -/
def tableN (d : RemapData) : RemapTable := fun g p => ⟨segmentN d g p, usedLine (lineIndexN d p)⟩

/-- Rule I1 speaks of a grid: its normal cell of digit 0 tests segment F (R149). -/
def testsF (d : RemapData) (g : Fin 7) : Bool := segmentN d g 0 == Segment.F.index

/-- Rule I1 speaks of some grid. -/
def anyTestsF (d : RemapData) : Bool :=
  testsF d 0 || testsF d 1 || testsF d 2 || testsF d 3 || testsF d 4 || testsF d 5 || testsF d 6

/-- `LINE_I` as an index of `usedLine`: where I1 speaks of some grid, digit 3 is on digit 0's normal
line (R149), by exchanging two entries of an otherwise open assignment. -/
def lineIndexI (d : RemapData) (p : Fin 5) : Fin 5 :=
  if anyTestsF d then Equiv.swap (d.lineOrderI 3) (lineIndexN d 0) (d.lineOrderI p) else d.lineOrderI p

/-- The segment an inverted cell tests: segment C at digit 3 where I1 speaks of the grid (R149). -/
def segmentI (d : RemapData) (g : Fin 7) (p : Fin 5) : Fin 7 :=
  if p = 3 ∧ testsF d g then Segment.C.index else d.segI g p

/-- `TAB_I` (R147, R149). -/
def tableI (d : RemapData) : RemapTable := fun g p => ⟨segmentI d g p, usedLine (lineIndexI d p)⟩

/-- The block's `TAB_N` or `TAB_I`. -/
def remapTable : Sel → RemapTable
  | .normal => tableN Config.remapData
  | .inverted => tableI Config.remapData

end Sys2Proof.Machine
end

