-- ==== Sys2Proof/Machine/Decoder.lean ====
section
/-! DEFINITION. The segment decoder (41_decoder): the remapper, and the pure queries FONT and REMAP. -/

namespace Sys2Proof.Machine

/-- One cell's contribution to a grid word (R145). -/
def cellBit (c : Cell) (mask : Byte) : Word := if mask.getLsbD c.seg then segLineBit c.line else 0#16

/-- One grid word: the OR over the five digits (R145). -/
def gridWord (tab : RemapTable) (dig : Five Byte) (g : Fin 7) : Word :=
  [0, 1, 2, 3, 4].foldl (fun w p => w ||| cellBit (tab g p) (dig.get p)) 0#16

/-- The physical matrix `M[0..6]` of a digit buffer (R145). -/
def remapMatrix (tab : RemapTable) (dig : Five Byte) : Seven Word := Seven.ofFn (gridWord tab dig)

/-- FONT (R140). -/
def execFont (sel : Sel) (code : Byte) (s : State) : Host.Outcome State Fault Refusal :=
  s.perform (checkCode code) fun t => t.giveResult (.byte (fontLookup sel code))

/-- REMAP (R145). -/
def execRemap (sel : Sel) (dig : Five Byte) (s : State) : Host.Outcome State Fault Refusal :=
  s.perform none fun t => t.giveResult (.matrix (remapMatrix (remapTable sel) dig))

end Sys2Proof.Machine
end

