-- ==== Sys2Proof/Machine/Transport.lean ====
section
/-! DEFINITION. The bit-serial transport (40_transport): the bodies that the sequencer calls inline,
then the meanings of BEGIN, END, WR8, WR16 and RD8. -/

namespace Sys2Proof.Machine

/-- BEGIN's body (R101). -/
def State.beginBody (s : State) : State := (s.drive .stb false).wait 1

/-- END's body (R102). -/
def State.endBody (s : State) : State := (s.drive .stb true).wait 1

/-- One write bit slot (R104, R115). -/
def State.writeSlot (s : State) (b : Level) : State :=
  ((((s.drive .clk false).drive .dio b).wait 1).drive .clk true).wait 1

/-- Write bit slots in the order of the list. -/
def State.writeSlots (s : State) (bs : List Level) : State := bs.foldl State.writeSlot s

/-- WR8's body: eight slots, bit 0 first, and one settle wait (R104). -/
def State.wr8Body (s : State) (v8 : Byte) : State := (s.writeSlots (wireBits v8)).wait 1

/-- WR16's body: sixteen slots, bit 0 first, and one settle wait (R108). -/
def State.wr16Body (s : State) (v16 : Word) : State := (s.writeSlots (wireBits v16)).wait 1

/-- RD8's accumulator after one sample: shifted right, the sample in bit 7 (R112). -/
def shiftIn (acc : Byte) (b : Level) : Byte := if b then (acc >>> 1) ||| 0x80 else acc >>> 1

/-- One read bit slot, with the accumulator (R112, R116). -/
def readSlot (acc : Byte) (s : State) : Byte × State :=
  let low := (s.drive .clk false).wait 1
  (shiftIn acc low.sampleLevel, (low.sampled.drive .clk true).wait 1)

/-- A number of read bit slots, with the accumulator (R112). -/
def readSlots : Nat → Byte → State → Byte × State
  | 0, acc, s => (acc, s)
  | n + 1, acc, s => readSlots n (readSlot acc s).1 (readSlot acc s).2

/-- RD8's body and result: the line turned round, eight slots, the line restored with its latch
UNKNOWN, and no trailing wait (R112). -/
def State.rd8Body (s : State) : Byte × State :=
  let read := readSlots 8 0x00 (s.setMode .inPu)
  (read.1, (read.2.setMode .out).forgetDio)

/-- BEGIN (R101). -/
def execBegin (s : State) : Host.Outcome State Fault Refusal :=
  s.perform s.checkOutside State.beginBody

/-- END (R102). -/
def execEnd (s : State) : Host.Outcome State Fault Refusal :=
  s.perform s.checkInside State.endBody

/-- WR8 (R103, R104). -/
def execWr8 (v8 : Byte) (s : State) : Host.Outcome State Fault Refusal :=
  s.perform s.checkInside fun t => t.wr8Body v8

/-- WR16 (R107, R108). -/
def execWr16 (v16 : Word) (s : State) : Host.Outcome State Fault Refusal :=
  s.perform s.checkInside fun t => t.wr16Body v16

/-- RD8 (R111, R112). -/
def execRd8 (s : State) : Host.Outcome State Fault Refusal :=
  s.perform s.checkInside fun t => t.rd8Body.2.giveResult (.byte t.rd8Body.1)

end Sys2Proof.Machine
end

