-- ==== Sys2Proof/Machine/Display.lean ====
section
/-! DEFINITION. The refresh (42_sequencer R180) and the display operations DIGIT, DIGITS, SEG, SEGS and
CLEAR (R175 to R179). All checks come before the first write and the first event (R170). -/

namespace Sys2Proof.Machine

/-- One transaction: BEGIN, what it sends, END (R180). -/
def State.transaction (s : State) (send : State → State) : State := (send s.beginBody).endBody

/-- WR16 of each word in order, inside one transaction (R180, R181). -/
def State.wr16Each (s : State) (ws : List Word) : State := ws.foldl State.wr16Body s

/-- The four transactions of a refresh for a matrix and a control value (R180, R181). -/
def State.sendRefresh (s : State) (m : Seven Word) (ctrl : BitVec 4) : State :=
  (((s.transaction fun t => t.wr8Body dataWriteIncByte).transaction fun t =>
      (t.wr8Body addressSetByte).wr16Each m.toList).transaction fun t =>
    t.wr8Body (displayModeByte submode7g11s)).transaction fun t => t.wr8Body (displayControlByte ctrl)

/-- REFRESH: the matrix comes from `DIG` and `RSEL` before any bus event (R180). -/
def State.refresh (s : State) : State :=
  s.sendRefresh (remapMatrix (remapTable s.rsel) s.dig) s.ctrl

/-- DIGIT (R175). -/
def execDigit (code pos : Byte) (s : State) : Host.Outcome State Fault Refusal :=
  s.perform (firstFault [s.checkOutside, checkPos pos, checkCode code]) fun t =>
    (t.setDig pos.toNat (fontLookup t.fsel code)).refresh

/-- DIGITS (R176). -/
def execDigits (codes : List Byte) (pos : Byte) (s : State) : Host.Outcome State Fault Refusal :=
  s.perform (firstFault [s.checkOutside, checkPos pos, checkLen pos codes.length, checkCodes codes]) fun t =>
    (t.setDigs pos.toNat (codes.map (fontLookup t.fsel))).refresh

/-- SEG (R177). -/
def execSeg (mask pos : Byte) (s : State) : Host.Outcome State Fault Refusal :=
  s.perform (firstFault [s.checkOutside, checkPos pos]) fun t => (t.setDig pos.toNat mask).refresh

/-- SEGS (R178). -/
def execSegs (masks : List Byte) (pos : Byte) (s : State) : Host.Outcome State Fault Refusal :=
  s.perform (firstFault [s.checkOutside, checkPos pos, checkLen pos masks.length]) fun t =>
    (t.setDigs pos.toNat masks).refresh

/-- CLEAR (R179). -/
def execClear (s : State) : Host.Outcome State Fault Refusal :=
  s.perform s.checkOutside fun t =>
    (t.setDigs 0 (List.replicate 5 (fontLookup t.fsel blankCode))).refresh

end Sys2Proof.Machine
end

