-- ==== Sys2Proof/Machine/Keys.lean ====
section
/-! DEFINITION. The key read: KEYDECODE (42_sequencer R191) and GETBUTTONS (R190). -/

namespace Sys2Proof.Machine

/-- What one key line of a raw byte adds to the result (R191). -/
def keyLineBit (l : KeyLine) (i : Nat) (raw : Byte) : BitVec 32 :=
  if l.pressed raw then 1#32 <<< l.resultBit i else 0

/-- What the raw byte of column i adds to the result (R191). -/
def keyBits (i : Nat) (raw : Byte) : BitVec 32 := keyLineBit .K1 i raw ||| keyLineBit .K2 i raw

/-- The 32-bit key mask of five raw bytes (R191). -/
def keyMask (raw : Five Byte) : BitVec 32 :=
  keyBits 0 raw.e0 ||| keyBits 1 raw.e1 ||| keyBits 2 raw.e2 ||| keyBits 3 raw.e3 ||| keyBits 4 raw.e4

/-- Five RD8s in sequence and their bytes (R190). -/
def State.readFiveBytes (s : State) : Five Byte × State :=
  let r0 := s.rd8Body
  let r1 := r0.2.rd8Body
  let r2 := r1.2.rd8Body
  let r3 := r2.2.rd8Body
  let r4 := r3.2.rd8Body
  (⟨r0.1, r1.1, r2.1, r3.1, r4.1⟩, r4.2)

/-- GETBUTTONS' bus sequence and its result (R190). -/
def State.keyRead (s : State) : State :=
  let read := (s.beginBody.wr8Body dataReadByte).readFiveBytes
  read.2.endBody.giveResult (.keys (keyMask read.1))

/-- GETBUTTONS (R190). -/
def execGetbuttons (s : State) : Host.Outcome State Fault Refusal :=
  s.perform s.checkOutside State.keyRead

/-- KEYDECODE (R191). -/
def execKeydecode (raw : Five Byte) (s : State) : Host.Outcome State Fault Refusal :=
  s.perform none fun t => t.giveResult (.keys (keyMask raw))

end Sys2Proof.Machine
end

