-- ==== Sys2Proof/Machine/Wire.lean ====
section
/-! DEFINITION. The wire command rows of the opcode table. A wire command is one byte, sent by WR8
inside a transaction (30_encoding R80): its effect in the block is WR8's, framing check included, and
what the chip does with it is outside the block (00_scope R4; log 1). -/

namespace Sys2Proof.Machine

/-- A wire command byte sent by WR8 (30_encoding R80, 40_transport R104). -/
def sendCommand (b : Byte) (s : State) : Host.Outcome State Fault Refusal :=
  s.perform s.checkInside fun t => t.wr8Body b

/-- DM_6G12S, 0x02 (R81). -/
def execDm6g12s (s : State) : Host.Outcome State Fault Refusal :=
  sendCommand (displayModeByte submode6g12s) s

/-- DM_7G11S, 0x03 (R81). -/
def execDm7g11s (s : State) : Host.Outcome State Fault Refusal :=
  sendCommand (displayModeByte submode7g11s) s

/-- DATA_WRITE_INC, 0x40 (R82). -/
def execDataWriteInc (s : State) : Host.Outcome State Fault Refusal := sendCommand dataWriteIncByte s

/-- DATA_READ, 0x42 (R82). -/
def execDataRead (s : State) : Host.Outcome State Fault Refusal := sendCommand dataReadByte s

/-- DATA_WRITE_FIXED, 0x44 (R82). -/
def execDataWriteFixed (s : State) : Host.Outcome State Fault Refusal := sendCommand dataWriteFixedByte s

/-- DISPLAY_CONTROL, 0x80 | CTRL (R83). -/
def execDisplayControl (ctrl : BitVec 4) (s : State) : Host.Outcome State Fault Refusal :=
  sendCommand (displayControlByte ctrl) s

/-- ADDRESS_SET, 0xC0 (R84). -/
def execAddressSet (s : State) : Host.Outcome State Fault Refusal := sendCommand addressSetByte s

end Sys2Proof.Machine
end

