-- ==== Sys2Proof/Machine/Dispatch.lean ====
section
/-! DEFINITION. One arm for each constructor of Instr, each a direct call of its meaning. -/

namespace Sys2Proof.Machine

def exec (i : Instr) (s : State) : Host.Outcome State Fault Refusal :=
  match i with
  | .beginTxn => Sys2Proof.Machine.execBegin s
  | .endTxn => Sys2Proof.Machine.execEnd s
  | .wr8 v8 => Sys2Proof.Machine.execWr8 v8 s
  | .wr16 v16 => Sys2Proof.Machine.execWr16 v16 s
  | .rd8 => Sys2Proof.Machine.execRd8 s
  | .setbright level on => Sys2Proof.Machine.execSetbright level on s
  | .setfont sel => Sys2Proof.Machine.execSetfont sel s
  | .setfilter sel => Sys2Proof.Machine.execSetfilter sel s
  | .digit code pos => Sys2Proof.Machine.execDigit code pos s
  | .digits codes pos => Sys2Proof.Machine.execDigits codes pos s
  | .seg mask pos => Sys2Proof.Machine.execSeg mask pos s
  | .segs masks pos => Sys2Proof.Machine.execSegs masks pos s
  | .clear => Sys2Proof.Machine.execClear s
  | .getbuttons => Sys2Proof.Machine.execGetbuttons s
  | .font sel code => Sys2Proof.Machine.execFont sel code s
  | .remap sel dig => Sys2Proof.Machine.execRemap sel dig s
  | .keydecode raw => Sys2Proof.Machine.execKeydecode raw s
  | .dm6g12s => Sys2Proof.Machine.execDm6g12s s
  | .dm7g11s => Sys2Proof.Machine.execDm7g11s s
  | .dataWriteInc => Sys2Proof.Machine.execDataWriteInc s
  | .dataRead => Sys2Proof.Machine.execDataRead s
  | .dataWriteFixed => Sys2Proof.Machine.execDataWriteFixed s
  | .displayControl ctrl => Sys2Proof.Machine.execDisplayControl ctrl s
  | .addressSet => Sys2Proof.Machine.execAddressSet s

end Sys2Proof.Machine
end

