-- ==== Sys2Proof/Machine/Step.lean ====
section
/-! DEFINITION. One step: the operation the host presents at `pc` is decoded and run to completion
(10_state R36, 20_memory R59). -/

namespace Sys2Proof.Machine

/-- One step. Halted, or with nothing presented, the machine stays as it is (60_exceptions R223,
70_reset R252; log 12); bytes that spell no operation are refused (30_encoding R74). -/
def step (s : State) : Host.Outcome State Fault Refusal :=
  match s.presented with
  | .nothing => .next s
  | .beyond => .fault .pcBeyondProgram
  | .request r =>
    match decodeRequest r with
    | .ok i => exec i s
    | .error e => .refused (.undecodable e)

/-- The state with a word of the opcode table, operand bytes of zeros after it, presented at `pc`: the
host's presenting of that operation (log 11). -/
def State.withFetchWord (s : State) (nbits w : Nat) : State :=
  s.present (putAt s.program s.pc (tableRequest nbits w))

end Sys2Proof.Machine
end

