-- ==== Sys2Proof/Machine/Assembler.lean ====
section
/-! DEFINITION. The assembler syntax of 30_encoding R90 with the pseudo-instructions of R91, from the text
of a program to the requests that present it (log 21). -/

namespace Sys2Proof.Machine

/-- The words of the syntax (R90, R91). -/
inductive AsmWord where
  | beginW
  | endW
  | wr8
  | wr16
  | rd8
  | setbright
  | setfont
  | setfilter
  | digit
  | digits
  | seg
  | segs
  | clear
  | getbuttons
  | font
  | remap
  | keydecode
  | cmd
  | refresh
  | blank
  | on
  | off
  | normal
  | inverted
  deriving DecidableEq, Repr

/-- The tokens of a line (R90). -/
inductive AsmToken where
  | word (w : AsmWord)
  | num (n : Nat)
  | comma
  | openBrace
  | closeBrace
  deriving DecidableEq, Repr

/-- A number as an operand of some width: a larger one is no operand of that type (R72). -/
def asmNum (width n : Nat) : Option (BitVec width) :=
  if n < 2 ^ width then some (BitVec.ofNat width n) else none

/-- `on` or `off` (R90). -/
def asmSwitch : AsmWord → Option Bool
  | .on => some true
  | .off => some false
  | _ => none

/-- `normal` or `inverted` (R90). -/
def asmSel : AsmWord → Option Sel
  | .normal => some .normal
  | .inverted => some .inverted
  | _ => none

/-- The elements of a nonempty list up to its closing brace, and the tokens after it. -/
def asmElems : List AsmToken → Option (List Byte × List AsmToken)
  | .num n :: .closeBrace :: rest => (asmNum 8 n).map fun b => ([b], rest)
  | .num n :: .comma :: rest =>
    match asmNum 8 n, asmElems rest with
    | some b, some (bs, after) => some (b :: bs, after)
    | _, _ => none
  | _ => none

/-- A list in braces, and the tokens after it (R90). -/
def asmList : List AsmToken → Option (List Byte × List AsmToken)
  | .openBrace :: .closeBrace :: rest => some ([], rest)
  | .openBrace :: rest => asmElems rest
  | _ => none

/-- A list of exactly five bytes that ends the line (R72). -/
def asmFive (ts : List AsmToken) : Option (Five Byte) :=
  match asmList ts with
  | some ([a, b, c, d, e], []) => some ⟨a, b, c, d, e⟩
  | _ => none

/-- A list, a comma and a position that end the line. -/
def asmListPos (make : List Byte → Byte → Instr) (ts : List AsmToken) : Option (List Instr) :=
  match asmList ts with
  | some (bs, [.comma, .num p]) => (asmNum 8 p).map fun pos => [make bs pos]
  | _ => none

/-- Two numbers of one byte. -/
def asmTwo (make : Byte → Byte → Instr) (a b : Nat) : Option (List Instr) :=
  match asmNum 8 a, asmNum 8 b with
  | some x, some y => some [make x y]
  | _, _ => none

/-- One line: its first word, then its operands (R90); a pseudo-instruction becomes the operations it
expands to (R91). -/
def assembleLine : List AsmToken → Option (List Instr)
  | [.word .beginW] => some [.beginTxn]
  | [.word .endW] => some [.endTxn]
  | [.word .wr8, .num v] => (asmNum 8 v).map fun b => [.wr8 b]
  | [.word .wr16, .num v] => (asmNum 16 v).map fun w => [.wr16 w]
  | [.word .rd8] => some [.rd8]
  | [.word .setbright, .num l, .comma, .word w] =>
    match asmNum 8 l, asmSwitch w with
    | some level, some on => some [.setbright level on]
    | _, _ => none
  | [.word .setfont, .word w] => (asmSel w).map fun sel => [.setfont sel]
  | [.word .setfilter, .word w] => (asmSel w).map fun sel => [.setfilter sel]
  | [.word .digit, .num c, .comma, .num p] => asmTwo .digit c p
  | .word .digits :: rest => asmListPos .digits rest
  | [.word .seg, .num m, .comma, .num p] => asmTwo .seg m p
  | .word .segs :: rest => asmListPos .segs rest
  | [.word .clear] => some [.clear]
  | [.word .getbuttons] => some [.getbuttons]
  | [.word .font, .word w, .comma, .num c] =>
    match asmSel w, asmNum 8 c with
    | some sel, some code => some [.font sel code]
    | _, _ => none
  | .word .remap :: .word w :: .comma :: rest =>
    match asmSel w, asmFive rest with
    | some sel, some dig => some [.remap sel dig]
    | _, _ => none
  | .word .keydecode :: rest => (asmFive rest).map fun raw => [.keydecode raw]
  | [.word .cmd, .num v] => (asmNum 8 v).map Instr.cmd
  | [.word .refresh] => some Instr.refresh
  | [.word .blank, .num p] => (asmNum 8 p).map Instr.blank
  | _ => none

/-- The requests that present some operations. DESIGN CHOICE, safe, log 15: an operation without an encoding,
which is a list of more than 255 elements (R72 allows it, R71's length byte cannot hold it), is refused. -/
def asmRequests (is : List Instr) : Option (List Request) :=
  if is.all Instr.wellFormed then some (is.map encode) else none

/-- A host program from its lines, as the requests that present it (10_state R36); a line that is no operation,
or one that no request can present (log 15), refuses the whole program. -/
def assemble : List (List AsmToken) → Option (List Request)
  | [] => some []
  | line :: lines =>
    match (assembleLine line).bind asmRequests, assemble lines with
    | some rs, some rest => some (rs ++ rest)
    | _, _ => none

/-- The spelling of a word: mnemonics in lower case (R90, R91). -/
def AsmWord.chars : AsmWord → List Char
  | .beginW => ['b', 'e', 'g', 'i', 'n']
  | .endW => ['e', 'n', 'd']
  | .wr8 => ['w', 'r', '8']
  | .wr16 => ['w', 'r', '1', '6']
  | .rd8 => ['r', 'd', '8']
  | .setbright => ['s', 'e', 't', 'b', 'r', 'i', 'g', 'h', 't']
  | .setfont => ['s', 'e', 't', 'f', 'o', 'n', 't']
  | .setfilter => ['s', 'e', 't', 'f', 'i', 'l', 't', 'e', 'r']
  | .digit => ['d', 'i', 'g', 'i', 't']
  | .digits => ['d', 'i', 'g', 'i', 't', 's']
  | .seg => ['s', 'e', 'g']
  | .segs => ['s', 'e', 'g', 's']
  | .clear => ['c', 'l', 'e', 'a', 'r']
  | .getbuttons => ['g', 'e', 't', 'b', 'u', 't', 't', 'o', 'n', 's']
  | .font => ['f', 'o', 'n', 't']
  | .remap => ['r', 'e', 'm', 'a', 'p']
  | .keydecode => ['k', 'e', 'y', 'd', 'e', 'c', 'o', 'd', 'e']
  | .cmd => ['c', 'm', 'd']
  | .refresh => ['r', 'e', 'f', 'r', 'e', 's', 'h']
  | .blank => ['b', 'l', 'a', 'n', 'k']
  | .on => ['o', 'n']
  | .off => ['o', 'f', 'f']
  | .normal => ['n', 'o', 'r', 'm', 'a', 'l']
  | .inverted => ['i', 'n', 'v', 'e', 'r', 't', 'e', 'd']

/-- Every word of the syntax. -/
def asmWords : List AsmWord :=
  [.beginW, .endW, .wr8, .wr16, .rd8, .setbright, .setfont, .setfilter, .digit, .digits, .seg, .segs,
    .clear, .getbuttons, .font, .remap, .keydecode, .cmd, .refresh, .blank, .on, .off, .normal, .inverted]

/-- The value of a hexadecimal digit. -/
def asmDigit (c : Char) : Option Nat :=
  let n := c.toNat
  if 48 ≤ n ∧ n ≤ 57 then some (n - 48)
  else if 97 ≤ n ∧ n ≤ 102 then some (n - 87)
  else if 65 ≤ n ∧ n ≤ 70 then some (n - 55)
  else none

/-- The value of a row of digits in a base, after a value read so far. -/
def asmDigits (base acc : Nat) : List Char → Option Nat
  | [] => some acc
  | c :: cs =>
    match asmDigit c with
    | some d => if d < base then asmDigits base (base * acc + d) cs else none
    | none => none

/-- A run of characters as one token: a number, decimal or `0x` hexadecimal, or a word (R90). -/
def asmRun (run : List Char) : Option AsmToken :=
  match run with
  | '0' :: 'x' :: d :: ds => (asmDigits 16 0 (d :: ds)).map .num
  | _ =>
    match asmDigits 10 0 run with
    | some n => some (.num n)
    | none => (asmWords.find? fun w => w.chars == run).map .word

/-- The tokens after a run that has ended. -/
def asmAfter (run : List Char) (rest : Option (List AsmToken)) : Option (List AsmToken) :=
  match run, rest with
  | [], rest => rest
  | c :: cs, some ts => (asmRun (c :: cs)).map fun t => t :: ts
  | _ :: _, none => none

/-- The tokens of a line, with the run read so far; `;` starts a comment (R90). Braces are the characters
123 and 125; blanks, tabs and carriage returns part tokens (log 21). -/
def asmTokens (run : List Char) : List Char → Option (List AsmToken)
  | [] => asmAfter run (some [])
  | c :: cs =>
    if c = ';' then asmAfter run (some [])
    else if c = ' ' ∨ c.toNat = 9 ∨ c.toNat = 13 then asmAfter run (asmTokens [] cs)
    else if c = ',' then asmAfter run ((asmTokens [] cs).map fun ts => .comma :: ts)
    else if c.toNat = 123 then asmAfter run ((asmTokens [] cs).map fun ts => .openBrace :: ts)
    else if c.toNat = 125 then asmAfter run ((asmTokens [] cs).map fun ts => .closeBrace :: ts)
    else asmTokens (run ++ [c]) cs

/-- The lines of a text, with the line read so far: one operation each (R90). -/
def asmLines (line : List Char) : List Char → List (List Char)
  | [] => [line]
  | c :: cs => if c.toNat = 10 then line :: asmLines [] cs else asmLines (line ++ [c]) cs

/-- The token lists of some lines; a line without tokens is none (log 21). -/
def asmTokenLines : List (List Char) → Option (List (List AsmToken))
  | [] => some []
  | line :: lines =>
    match asmTokens [] line, asmTokenLines lines with
    | some [], some rest => some rest
    | some (t :: ts), some rest => some ((t :: ts) :: rest)
    | _, _ => none

/-- A host program from its text in the assembler syntax (R90, R91). -/
def assembleText (text : List Char) : Option (List Request) :=
  match asmTokenLines (asmLines [] text) with
  | some lines => assemble lines
  | none => none

end Sys2Proof.Machine
end

