-- ==== Sys2Proof/Safety.lean ====
section
/-! DEFINITION. The terms in which claims about the machine are stated: the trace vocabulary of
95_test_vectors, the counts of 70_reset R270, the two invariants, the rules on tables, the end of a run,
the chip's timing. -/

namespace Sys2Proof.Machine

/-! ### Trace vocabulary -/

/-- A slot `S(b)`: the five events of one write bit slot (40_transport R104). -/
def slotEvents (b : Level) : List Event :=
  [.drive .clk false, .drive .dio b, .wait 1, .drive .clk true, .wait 1]

/-- A read slot `Rd(b)` (40_transport R112). -/
def readSlotEvents (b : Level) : List Event :=
  [.drive .clk false, .wait 1, .sample b, .drive .clk true, .wait 1]

/-- BEGIN's events (40_transport R101). -/
def beginEvents : List Event := [.drive .stb false, .wait 1]

/-- END's events (40_transport R102). -/
def endEvents : List Event := [.drive .stb true, .wait 1]

/-- The events of writing an n-bit value, bit i in slot i, and the settle wait (40_transport R104, R108). -/
def writeEvents {n : Nat} (v : BitVec n) : List Event :=
  (List.range n).flatMap (fun i => slotEvents (v.getLsbD i)) ++ [.wait 1]

/-- RD8's events, where sample i answers `b i` (40_transport R112). -/
def readEvents (b : Nat → Level) : List Event :=
  [.mode .inPu] ++ (List.range 8).flatMap (fun i => readSlotEvents (b i)) ++ [.mode .out]

/-- A transaction that carries one command byte. -/
def commandEvents (b : Byte) : List Event := beginEvents ++ writeEvents b ++ endEvents

/-- `REF(m, c)`: the four transactions of a refresh (42_sequencer R180, R181). -/
def refreshEvents (m : Seven Word) (c : Byte) : List Event :=
  commandEvents 0x40
    ++ (beginEvents ++ writeEvents (0xC0 : Byte) ++ m.toList.flatMap (fun w => writeEvents w) ++ endEvents)
    ++ commandEvents 0x03 ++ commandEvents c

/-- The k-th sample from a state on: the environment's listed answer, else the free value (log 4). -/
def State.sampleAt (s : State) (k : Nat) : Level := s.answers[k]?.getD (Config.sample (s.draws + k))

/-- `sum over i of (b_i << i)` for i = 0..7 (40_transport R112). -/
def byteOfSamples (b : Nat → Level) : Byte :=
  (List.range 8).foldl (fun acc i => acc + ((BitVec.ofBool (b i)).setWidth 8 <<< i)) 0

/-- The byte of the i-th RD8 of a key read from a state on: samples 8i to 8i + 7 (42_sequencer R190). -/
def State.keyByteAt (s : State) (i : Nat) : Byte := byteOfSamples fun k => s.sampleAt (8 * i + k)

/-- The five raw bytes of a key read. -/
def State.rawKeys (s : State) : Five Byte :=
  ⟨s.keyByteAt 0, s.keyByteAt 1, s.keyByteAt 2, s.keyByteAt 3, s.keyByteAt 4⟩

/-- GETBUTTONS' events (42_sequencer R190). -/
def keyReadEvents (b : Nat → Level) : List Event :=
  beginEvents ++ writeEvents (0x42 : Byte)
    ++ (List.range 5).flatMap (fun i => readEvents fun k => b (8 * i + k)) ++ endEvents

/-- The bit-delays an event takes at least (00_scope R11). -/
def Event.bitDelays : Event → Nat
  | .wait k => k
  | .drive _ _ | .mode _ | .sample _ => 0

/-- The bit-delays a trace takes at least (00_scope R11). -/
def bitDelays (evs : List Event) : Nat := (evs.map Event.bitDelays).sum

/-- The least time of a trace in microseconds (10_state R32, 70_reset R270). -/
def State.leastMicroseconds (s : State) (evs : List Event) : Nat := bitDelays evs * s.bitDelay

/-- The table of 70_reset R270, event counts; a wire command is a WR8 (30_encoding R80). -/
def eventCount : Instr → Nat
  | .beginTxn | .endTxn => 2
  | .wr8 _ => 41
  | .wr16 _ => 81
  | .rd8 => 42
  | .setbright _ _ | .setfont _ | .setfilter _ => 0
  | .digit _ _ | .digits _ _ | .seg _ _ | .segs _ _ | .clear => 747
  | .getbuttons => 255
  | .font _ _ | .remap _ _ | .keydecode _ => 0
  | .dm6g12s | .dm7g11s | .dataWriteInc | .dataRead | .dataWriteFixed | .displayControl _
  | .addressSet => 41

/-- The table of 70_reset R270, minimum bit-delays; a wire command is a WR8 (30_encoding R80). -/
def delayCount : Instr → Nat
  | .beginTxn | .endTxn => 1
  | .wr8 _ => 17
  | .wr16 _ => 33
  | .rd8 => 16
  | .setbright _ _ | .setfont _ | .setfilter _ => 0
  | .digit _ _ | .digits _ _ | .seg _ _ | .segs _ _ | .clear => 307
  | .getbuttons => 99
  | .font _ _ | .remap _ _ | .keydecode _ => 0
  | .dm6g12s | .dm7g11s | .dataWriteInc | .dataRead | .dataWriteFixed | .displayControl _
  | .addressSet => 17

/-- The levels driven on DIO, in order. -/
def dataLevels : List Event → List Level
  | [] => []
  | .drive .dio b :: evs => b :: dataLevels evs
  | _ :: evs => dataLevels evs

/-- DIO is driven only while CLK is 0, from a given CLK level on (40_transport R115). -/
def dataOnlyWhileLow (clk : Level) : List Event → Bool
  | [] => true
  | .drive .clk lv :: evs => dataOnlyWhileLow lv evs
  | .drive .dio _ :: evs => !clk && dataOnlyWhileLow clk evs
  | _ :: evs => dataOnlyWhileLow clk evs

/-- DIO is sampled only while CLK is 0 and the line is turned round, from given levels on (40_transport
R116). -/
def sampledOnlyWhileLow (clk : Level) (dir : Dir) : List Event → Bool
  | [] => true
  | .drive .clk lv :: evs => sampledOnlyWhileLow lv dir evs
  | .mode m :: evs => sampledOnlyWhileLow clk m evs
  | .sample _ :: evs => !clk && decide (dir = .inPu) && sampledOnlyWhileLow clk dir evs
  | _ :: evs => sampledOnlyWhileLow clk dir evs

/-- The host GPIO calls (60_exceptions R241). -/
inductive GpioCall where
  | setPinMode (m : Dir)
  | writeDigital (l : Line) (lv : Level)
  | readDigital (lv : Level)
  | delayMicroseconds (n : Nat)
  deriving DecidableEq, Repr

/-- The GPIO call that an event is, one for one (60_exceptions R241). -/
def Event.gpio (bitDelay : Nat) : Event → GpioCall
  | .drive l lv => .writeDigital l lv
  | .mode m => .setPinMode m
  | .wait k => .delayMicroseconds (k * bitDelay)
  | .sample b => .readDigital b

/-! ### Lines as the trace tells them -/

/-- The lines' state elements. -/
structure Lines where
  stb : Level
  clk : Level
  dio : Dio
  dir : Dir
  deriving DecidableEq, Repr

/-- The lines of a state. -/
def State.lines (s : State) : Lines := ⟨s.stb, s.clk, s.dio, s.dir⟩

/-- What an event does to the lines (00_scope R9); restoring the output leaves the latch UNKNOWN
(10_state R23). -/
def Lines.after (l : Lines) : Event → Lines
  | .drive .stb lv => { l with stb := lv }
  | .drive .clk lv => { l with clk := lv }
  | .drive .dio lv => { l with dio := .known lv }
  | .mode .inPu => { l with dir := .inPu }
  | .mode .out => { l with dir := .out, dio := .unknown }
  | .wait _ => l
  | .sample _ => l

/-- The lines after a trace from reset's idle-high lines on (70_reset R250, R251). -/
def linesAfter (evs : List Event) : Lines := evs.foldl Lines.after ⟨true, true, .known true, .out⟩

/-! ### States and runs -/

/-- The state takes operations: no fault is recorded (60_exceptions R223, R230). -/
def State.Ready (s : State) : Prop := s.fault.fv = false

/-- `FCODE` names a fault exactly when `FV` is set, and 6 and 7 are never written (60_exceptions R221). -/
def FaultReg.legal (f : FaultReg) : Prop :=
  (f.fv = false ∧ f.fcode = 0) ∨ (f.fv = true ∧ 1 ≤ f.fcode.toNat ∧ f.fcode.toNat ≤ 5)

/-- What holds between operations: the clock idles high (10_state R22), the data line is an output
(R24), `FAULT` is legal (60_exceptions R221), and `pc` is an index into the program or its end (R36). -/
def State.Idle (s : State) : Prop :=
  s.clk = true ∧ s.dir = .out ∧ s.fault.legal ∧ s.pc ≤ s.program.length

/-- The lines are what the trace since reset made them (00_scope R9, R10). -/
def State.LinesMatchTrace (s : State) : Prop := s.lines = linesAfter s.trace

/-- A run has ended successfully (70_reset R258). -/
def State.EndedWell (s : State) : Prop := s.pc = s.program.length ∧ s.fault.fv = false

/-- A run has ended faulted (70_reset R258). -/
def State.EndedFaulted (s : State) : Prop := s.fault.fv = true

/-- The state a fault leaves: `FAULT` written, nothing else (60_exceptions R222). -/
def State.faulted (s : State) (fcode : BitVec 3) : State := { s with fault := ⟨true, fcode⟩ }

/-- The state a display operation leaves when the digit buffer has become `dig`: the refresh's
transactions for `dig`, `RSEL` and `CTRL` on the bus (42_sequencer R180), the lines as R182 gives them. -/
def State.displayed (s : State) (dig : Five Byte) : State :=
  { s with
    dig := dig
    stb := true
    clk := true
    dio := .known true
    pc := s.pc + 1
    trace := s.trace ++
      refreshEvents (remapMatrix (remapTable s.rsel) dig) (0x80 ||| s.ctrl.setWidth 8) }

/-- Operations one after another, stopping at a fault or refusal of the model. -/
def execAll : List Instr → State → Host.Outcome State Fault Refusal
  | [], s => .next s
  | i :: is, s =>
    match exec i s with
    | .next t => execAll is t
    | .fault r => .fault r
    | .refused r => .refused r

/-- A display operation: one that writes `DIG` and refreshes (42_sequencer R175 to R179). -/
def isDisplay : Instr → Bool
  | .digit _ _ | .digits _ _ | .seg _ _ | .segs _ _ | .clear => true
  | .beginTxn | .endTxn | .wr8 _ | .wr16 _ | .rd8 | .setbright _ _ | .setfont _ | .setfilter _
  | .getbuttons | .font _ _ | .remap _ _ | .keydecode _ | .dm6g12s | .dm7g11s | .dataWriteInc
  | .dataRead | .dataWriteFixed | .displayControl _ | .addressSet => false

/-- An operation that drives STB: BEGIN, END, and every operation that frames a transaction (10_state
R20). -/
def movesStrobe : Instr → Bool
  | .beginTxn | .endTxn | .digit _ _ | .digits _ _ | .seg _ _ | .segs _ _ | .clear | .getbuttons => true
  | .wr8 _ | .wr16 _ | .rd8 | .setbright _ _ | .setfont _ | .setfilter _ | .font _ _ | .remap _ _
  | .keydecode _ | .dm6g12s | .dm7g11s | .dataWriteInc | .dataRead | .dataWriteFixed
  | .displayControl _ | .addressSet => false

/-- An operation that runs bit slots: WR8, WR16, RD8, and every operation that calls one of them (10_state
R20, R22, R23). -/
def clocksBits : Instr → Bool
  | .wr8 _ | .wr16 _ | .rd8 | .digit _ _ | .digits _ _ | .seg _ _ | .segs _ _ | .clear | .getbuttons
  | .dm6g12s | .dm7g11s | .dataWriteInc | .dataRead | .dataWriteFixed | .displayControl _
  | .addressSet => true
  | .beginTxn | .endTxn | .setbright _ _ | .setfont _ | .setfilter _ | .font _ _ | .remap _ _
  | .keydecode _ => false

/-- The row of spec/opcode_table.json that an operation stands for: its interface (`format`), `match`
and `mask`. -/
def tableRow : Instr → Port × Byte × Byte
  | .beginTxn => (.hostOp, 0x01, 0x1F)
  | .endTxn => (.hostOp, 0x02, 0x1F)
  | .wr8 _ => (.hostOp, 0x03, 0x1F)
  | .wr16 _ => (.hostOp, 0x04, 0x1F)
  | .rd8 => (.hostOp, 0x05, 0x1F)
  | .setbright _ _ => (.hostOp, 0x08, 0x1F)
  | .setfont _ => (.hostOp, 0x09, 0x1F)
  | .setfilter _ => (.hostOp, 0x0A, 0x1F)
  | .digit _ _ => (.hostOp, 0x10, 0x1F)
  | .digits _ _ => (.hostOp, 0x11, 0x1F)
  | .seg _ _ => (.hostOp, 0x12, 0x1F)
  | .segs _ _ => (.hostOp, 0x13, 0x1F)
  | .clear => (.hostOp, 0x14, 0x1F)
  | .getbuttons => (.hostOp, 0x18, 0x1F)
  | .font _ _ => (.hostOp, 0x1C, 0x1F)
  | .remap _ _ => (.hostOp, 0x1D, 0x1F)
  | .keydecode _ => (.hostOp, 0x1E, 0x1F)
  | .dm6g12s => (.wireCmd, 0x02, 0xFF)
  | .dm7g11s => (.wireCmd, 0x03, 0xFF)
  | .dataWriteInc => (.wireCmd, 0x40, 0xFF)
  | .dataRead => (.wireCmd, 0x42, 0xFF)
  | .dataWriteFixed => (.wireCmd, 0x44, 0xFF)
  | .displayControl _ => (.wireCmd, 0x80, 0xF0)
  | .addressSet => (.wireCmd, 0xC0, 0xFF)

/-- `BIT_DELAY` meets the chip's timing through the lower bounds of 70_reset R271 and R264 (R262). DIO is held
through the high phase that follows its CLK rise, at least one bit-delay (40_transport R115). The read
turnaround has both ends that R264 gives, 2 bit-delays to the first CLK fall and 3 to the first sample; the spec
does not say which the chip's minimum means, so both must hold (DESIGN CHOICE, log 19). -/
def ChipTiming.metBy (t : ChipTiming) (bitDelay : Nat) : Prop :=
  t.clkLow ≤ bitDelay ∧ t.clkHigh ≤ bitDelay ∧ t.dioSetup ≤ bitDelay ∧ t.dioHold ≤ bitDelay
    ∧ t.stbFallToClkFall ≤ bitDelay
    ∧ t.clkRiseToStbRiseAfterWrite ≤ 2 * bitDelay ∧ t.clkRiseToStbRiseAfterRead ≤ bitDelay
    ∧ t.stbHigh ≤ bitDelay ∧ t.byteGap ≤ 2 * bitDelay
    ∧ t.readTurnaroundToClkFall ≤ 2 * bitDelay ∧ t.readTurnaround ≤ 3 * bitDelay

/-- The run is within the spec as far as the chip's timing goes (70_reset R262). -/
def State.WithinTiming (s : State) : Prop := ChipTiming.metBy Config.chipTiming s.bitDelay

/-! ### Rules on the remap tables -/

/-- WF1, WF3 and WF4 of 41_decoder R147: one line for each digit, among the used ones, all different.
WF2 is the type of a cell's segment. -/
def RemapTable.WellFormed (tab : RemapTable) : Prop :=
  (∀ g p, (tab g p).line ∈ [2, 3, 8, 9, 10])
    ∧ (∀ g p q, (tab g p).line = (tab g q).line → p = q)
    ∧ (∀ g h p, (tab g p).line = (tab h p).line)

/-- N1 and N2 of 41_decoder R148. -/
def RemapTable.NormalRules (tab : RemapTable) : Prop :=
  (∀ g, (tab g 4).line = 3) ∧ (∀ g h, (tab g 4).seg = (tab h 4).seg → g = h)

/-- I1 of 41_decoder R149, for a normal and an inverted table. -/
def InvertedRule (tabN tabI : RemapTable) : Prop :=
  ∀ g, (tabN g 0).seg = Segment.F.index →
    (tabI g 3).seg = Segment.C.index ∧ (tabI g 3).line = (tabN g 0).line

end Sys2Proof.Machine
end

