-- ==== Sys2Proof/Certificates/Slice0/Obligations.lean ====
section
/-! DEFINITION. The statements for the provers. Each docstring names the rules of spec/ that the
statement formalises; `Ready` is `FAULT.FV` = 0. -/

open Sys2Proof Sys2Proof.Machine

/-! ### Steps, requests and programs -/

/-- A step is `exec` of the operation that the request at `pc` decodes to, with nothing around it
(10_state R36, 20_memory R59). -/
def Obligations.StepRunsDecodedOperation : Prop :=
  ∀ (s : State) (r : Request) (i : Instr),
    s.program[s.pc]? = some r → decodeRequest r = .ok i → step s = exec i s

/-- While `FV` = 1 the block takes no operation: no event, no state change, `pc` does not move; a step
leaves the first recorded code, and reset leaves the halt (60_exceptions R223). -/
def Obligations.HaltedBlockTakesNoOperation : Prop :=
  ∀ s : State, s.fault.fv = true →
    step s = .next s ∧ (∀ i : Instr, exec i s = .next s) ∧ ∀ d : Nat, (s.applyReset d).Ready

/-- With nothing left to present the machine waits as it is (model's choice, log 12); a request that
spells no operation is refused and never reaches the machine (30_encoding R74, log 14); a `pc` past the
program's end is the model's fault (log 13). -/
def Obligations.StepWithoutOperation : Prop :=
  ∀ s : State, s.Ready →
    (s.pc = s.program.length → step s = .next s)
    ∧ (∀ r e, s.program[s.pc]? = some r → decodeRequest r = .error e → step s = .refused (.undecodable e))
    ∧ (s.pc > s.program.length → step s = .fault .pcBeyondProgram)

/-- A completed operation advances `pc` by 1; a fault leaves it (10_state R36, 60_exceptions R222). -/
def Obligations.PcCountsCompletedOperations : Prop :=
  ∀ (i : Instr) (s t : State), s.Ready → exec i s = .next t →
    t.pc = if t.fault.fv then s.pc else s.pc + 1

/-! ### Encoding -/

/-- Words written out from 30_encoding R71, R73 and R80 to R84, among them the whole listings of programs P1,
P3 and P5 of 95_test_vectors, decode to what they stand for. -/
def Obligations.ListedWordsDecode : Prop :=
  decodeListing 10 [0x08, 0x03, 0x01, 0x14] = .ok [.setbright 3 true, .clear]
    ∧ decodeListing 10 [0x08, 0x07, 0x00, 0x10, 0x00, 0x00, 0x11, 0x02, 0x01, 0x02, 0x04, 0x14]
      = .ok [.setbright 7 false, .digit 0 0, .digits [1, 2] 4, .clear]
    ∧ decodeListing 10
        [0x08, 0x00, 0x01, 0x12, 0x20, 0x00, 0x0A, 0x01, 0x12, 0x00, 0x00, 0x12, 0x04, 0x03]
      = .ok [.setbright 0 true, .seg 0x20 0, .setfilter .inverted, .seg 0x00 0, .seg 0x04 3]
    ∧ decodeRequest ⟨.hostOp, [0x04, 0x86, 0x03]⟩ = .ok (.wr16 0x0386)
    ∧ decodeRequest ⟨.hostOp, [0x1E, 0x01, 0x08, 0x09, 0x00, 0x02]⟩
      = .ok (.keydecode ⟨0x01, 0x08, 0x09, 0x00, 0x02⟩)
    ∧ decodeRequest ⟨.hostOp, [0x1C, 0x00, 0x10]⟩ = .ok (.font .normal 16)
    ∧ decodeRequest ⟨.wireCmd, [0x8B]⟩ = .ok (.displayControl 0xB)

/-- Decoding what the encoder writes gives the operation back, for every operation and wire command with
every operand (30_encoding R71 to R73, R80 to R84). -/
def Obligations.EncodeThenDecode : Prop :=
  ∀ i : Instr, i.wellFormed = true → decodeRequest (encode i) = .ok i

/-- A request has one meaning: what decodes is well-formed, and its request is the encoder's
(30_encoding R71, R74, R75). -/
def Obligations.DecodeThenEncode : Prop :=
  ∀ (r : Request) (i : Instr), decodeRequest r = .ok i → i.wellFormed = true ∧ encode i = r

/-- The reserved `OP` values select no operation, whatever follows them (30_encoding R74). -/
def Obligations.ReservedOpsAreRefused : Prop :=
  ∀ op ∈ ([0x00, 0x06, 0x07, 0x0B, 0x0C, 0x0D, 0x0E, 0x0F, 0x15, 0x16, 0x17, 0x19, 0x1A, 0x1B, 0x1F] :
      List Byte),
    ∀ operands : List Byte, decodeRequest ⟨.hostOp, op :: operands⟩ = .error (.reservedOp op)

/-- Operand tuples of the wrong shape are refused at decode (30_encoding R74): a `sel` or an `on` above 1, a
REMAP or KEYDECODE without exactly five bytes, and of any encoding a part that lacks operand bytes and the
whole with bytes left over. -/
def Obligations.WrongShapesAreRefused : Prop :=
  (∀ (op b : Byte) (rest : List Byte), op ∈ ([0x09, 0x0A, 0x1C, 0x1D] : List Byte) → b ≠ 0 → b ≠ 1 →
      decodeRequest ⟨.hostOp, op :: b :: rest⟩ = .error (.badSel b))
    ∧ (∀ (level b : Byte) (rest : List Byte), b ≠ 0 → b ≠ 1 →
      decodeRequest ⟨.hostOp, 0x08 :: level :: b :: rest⟩ = .error (.badOn b))
    ∧ (∀ (sel : Sel) (masks : List Byte), masks.length ≠ 5 →
      decodeRequest ⟨.hostOp, 0x1D :: selByte sel :: masks⟩ = .error .wrongShape)
    ∧ (∀ raw : List Byte, raw.length ≠ 5 →
      decodeRequest ⟨.hostOp, 0x1E :: raw⟩ = .error .wrongShape)
    ∧ (∀ (i : Instr) (k : Nat), i.wellFormed = true → 0 < k → k < (encode i).bytes.length →
      decodeRequest ⟨(encode i).port, (encode i).bytes.take k⟩ = .error .wrongShape)
    ∧ ∀ (i : Instr) (b : Byte) (rest : List Byte), i.wellFormed = true →
      decodeRequest ⟨(encode i).port, (encode i).bytes ++ b :: rest⟩ = .error .wrongShape

/-- The pseudo-instructions expand as 30_encoding R91 says. -/
def Obligations.PseudoInstructionsExpand : Prop :=
  ∀ b : Byte,
    assembleLine [.word .cmd, .num b.toNat] = some [.beginTxn, .wr8 b, .endTxn]
    ∧ assembleLine [.word .refresh] = some [.segs [] 0]
    ∧ assembleLine [.word .blank, .num b.toNat] = some [.digit 16 b]

/-! ### Reset and invariants -/

/-- Reset leaves every element as the table of 70_reset R250 has it, `CTRL` at the open `CTRL_RESET`, and
the trace empty (R251); the default `BIT_DELAY` is 5. -/
def Obligations.ResetLeavesEveryElement : Prop :=
  (∀ (s : State) (d : Nat),
    let t := s.applyReset d
    t.stb = true ∧ t.clk = true ∧ t.dio = .known true ∧ t.dir = .out
      ∧ (∀ p, t.dig.get p = 0x00) ∧ t.ctrl = Config.ctrlReset ∧ t.fsel = .normal ∧ t.rsel = .normal
      ∧ t.bitDelay = d ∧ t.fault = ⟨false, 0⟩ ∧ t.pc = 0 ∧ t.trace = [])
    ∧ State.reset.applyReset 5 = State.reset

/-- Both invariants hold after reset. -/
def Obligations.InvariantsHoldAfterReset : Prop :=
  (∀ d : Nat, (State.resetWith d).Idle ∧ (State.resetWith d).LinesMatchTrace)
    ∧ ∀ (s : State) (d : Nat), (s.applyReset d).Idle ∧ (s.applyReset d).LinesMatchTrace

/-- Every step keeps the idle form: `CLK` = 1 (10_state R22), `DIR` = OUT (R24), a legal `FAULT`
(60_exceptions R221), `pc` within the program (R36). -/
def Obligations.StepKeepsIdle : Prop :=
  ∀ s t : State, s.Idle → step s = .next t → t.Idle

/-- Every step keeps the lines equal to what the trace since reset made of them (00_scope R9, R10). -/
def Obligations.StepKeepsLinesMatchTrace : Prop :=
  ∀ s t : State, s.LinesMatchTrace → step s = .next t → t.LinesMatchTrace

/-! ### Rules over all operations -/

/-- `exec` always answers a next state: in a ready state every operation runs (60_exceptions R230), and while
`FV` = 1 it is not started and the state stays (R223; that this is a next state is log 12). -/
def Obligations.EveryOperationAnswersNextState : Prop :=
  ∀ (i : Instr) (s : State), ∃ t, exec i s = .next t

/-- Faults are precise: an operation that records one writes `FAULT` and nothing else; one that records
none leaves `FAULT`; no step clears a recorded fault, and reset does (60_exceptions R222). -/
def Obligations.FaultEntryIsPrecise : Prop :=
  (∀ (i : Instr) (s t : State), s.Ready → exec i s = .next t → t.fault.fv = true →
      ∃ c : FaultCode, t = s.faulted c.bits)
    ∧ (∀ (i : Instr) (s t : State), s.Ready → exec i s = .next t → t.fault.fv = false → t.fault = s.fault)
    ∧ (∀ s t : State, s.fault.fv = true → step s = .next t → t.fault = s.fault)
    ∧ ∀ (s : State) (d : Nat), (s.applyReset d).fault = ⟨false, 0⟩

/-- Who writes what (10_state R20 to R24, R26, R29 to R33): `CTRL` SETBRIGHT only, `FSEL` SETFONT only,
`RSEL` SETFILTER only, `DIG` the display operations only, `STB` the operations that frame a transaction only,
`CLK` and `DIO` those that run bit slots only, `DIR` RD8 and GETBUTTONS only, `FAULT` a fault's entry only,
`BIT_DELAY` and the program none. -/
def Obligations.RegistersHaveTheirOnlyWriters : Prop :=
  ∀ (i : Instr) (s t : State), exec i s = .next t →
    t.bitDelay = s.bitDelay ∧ t.program = s.program
      ∧ ((∀ level on, i ≠ .setbright level on) → t.ctrl = s.ctrl)
      ∧ ((∀ sel, i ≠ .setfont sel) → t.fsel = s.fsel)
      ∧ ((∀ sel, i ≠ .setfilter sel) → t.rsel = s.rsel)
      ∧ (isDisplay i = false → t.dig = s.dig)
      ∧ (movesStrobe i = false → t.stb = s.stb)
      ∧ (clocksBits i = false → t.clk = s.clk ∧ t.dio = s.dio)
      ∧ (i ≠ .rd8 → i ≠ .getbuttons → t.dir = s.dir)
      ∧ (t.fault = s.fault ∨ ∃ c : FaultCode, t = s.faulted c.bits)

/-- Event counts and minimum bit-delays of every operation (70_reset R270): a completed operation appends
exactly so many events, a faulting one none. -/
def Obligations.OperationsTakeTheirEventsAndDelays : Prop :=
  ∀ (i : Instr) (s t : State), s.Ready → exec i s = .next t →
    ∃ evs, t.trace = s.trace ++ evs
      ∧ (t.fault.fv = false → evs.length = eventCount i ∧ bitDelays evs = delayCount i)
      ∧ (t.fault.fv = true → evs = [])

/-- In every operation's events DIO is driven, by a `Drive` event, only while CLK is 0 (40_transport R115),
and is sampled only while CLK is 0 and the line is an input (R116). The `Mode` events of a read, which turn the
line while CLK is 1 (R112), drive no level and are not spoken of. -/
def Obligations.DataLineDrivenOnlyWhileClockLow : Prop :=
  ∀ (i : Instr) (s t : State), exec i s = .next t →
    ∃ evs, t.trace = s.trace ++ evs
      ∧ dataOnlyWhileLow s.clk evs = true ∧ sampledOnlyWhileLow s.clk s.dir evs = true

/-- No host operation reads `DIG`, `CTRL`, `FSEL` or `RSEL` back: given the same samples, changing them
changes no result, no fault, not `pc`, not a line (10_state R27, R29). That both runs take the same samples is
the model's choice: a sample is a function of `answers` and `draws`, equal in the two (log 4). -/
def Obligations.DisplayRegistersNeverReachTheHost : Prop :=
  ∀ (i : Instr) (s t : State) (dig : Five Byte) (ctrl : BitVec 4) (fsel rsel : Sel),
    exec i s = .next t →
    ∃ u, exec i { s with dig := dig, ctrl := ctrl, fsel := fsel, rsel := rsel } = .next u
      ∧ u.results = t.results ∧ u.fault = t.fault ∧ u.pc = t.pc ∧ u.lines = t.lines

/-- FONT, REMAP and KEYDECODE are pure: they read only their operands and the constant tables, and two
machines answer them alike (20_memory R60). -/
def Obligations.PureOperationsReadOperandsOnly : Prop :=
  ∀ (i : Instr) (s s' : State), s.Ready → s'.Ready →
    ((∃ sel code, i = .font sel code) ∨ (∃ sel dig, i = .remap sel dig) ∨ (∃ raw, i = .keydecode raw)) →
    (∃ code : BitVec 3, exec i s = .next (s.faulted code) ∧ exec i s' = .next (s'.faulted code))
      ∨ ∃ res : HostResult,
        exec i s = .next { s with results := s.results ++ [res], pc := s.pc + 1 }
          ∧ exec i s' = .next { s' with results := s'.results ++ [res], pc := s'.pc + 1 }

/-! ### Transport -/

/-- BEGIN (40_transport R101). -/
def Obligations.BeginOpensTransaction : Prop :=
  decodeRequest ⟨.hostOp, [0x01]⟩ = .ok .beginTxn
    ∧ ∀ s : State, s.Ready →
      (s.stb = true → exec .beginTxn s = .next
        { s with stb := false, pc := s.pc + 1, trace := s.trace ++ [.drive .stb false, .wait 1] })
      ∧ (s.stb = false → exec .beginTxn s = .next (s.faulted 5))

/-- END (40_transport R102). -/
def Obligations.EndClosesTransaction : Prop :=
  decodeRequest ⟨.hostOp, [0x02]⟩ = .ok .endTxn
    ∧ ∀ s : State, s.Ready →
      (s.stb = false → exec .endTxn s = .next
        { s with stb := true, pc := s.pc + 1, trace := s.trace ++ [.drive .stb true, .wait 1] })
      ∧ (s.stb = true → exec .endTxn s = .next (s.faulted 5))

/-- WR8 sends bit i in slot i and leaves `CLK` = 1, `DIO` = `v8[7]` (40_transport R103, R104). -/
def Obligations.Wr8SendsBitsInOrder : Prop :=
  (∀ v8 : Byte, decodeRequest ⟨.hostOp, [0x03, v8]⟩ = .ok (.wr8 v8))
    ∧ ∀ (v8 : Byte) (s : State), s.Ready →
      (s.stb = false → exec (.wr8 v8) s = .next
        { s with
          clk := true
          dio := .known (v8.getLsbD 7)
          pc := s.pc + 1
          trace := s.trace ++ ((List.range 8).flatMap (fun i => slotEvents (v8.getLsbD i)) ++ [.wait 1]) })
      ∧ (s.stb = true → exec (.wr8 v8) s = .next (s.faulted 5))

/-- WR16 sends bit i in slot i, with one settle wait, and leaves `DIO` = `v16[15]` (40_transport R107,
R108). -/
def Obligations.Wr16SendsBitsInOrder : Prop :=
  (∀ lo hi : Byte, decodeRequest ⟨.hostOp, [0x04, lo, hi]⟩ = .ok (.wr16 (hi ++ lo)))
    ∧ ∀ (v16 : Word) (s : State), s.Ready →
      (s.stb = false → exec (.wr16 v16) s = .next
        { s with
          clk := true
          dio := .known (v16.getLsbD 15)
          pc := s.pc + 1
          trace := s.trace ++ ((List.range 16).flatMap (fun i => slotEvents (v16.getLsbD i)) ++ [.wait 1]) })
      ∧ (s.stb = true → exec (.wr16 v16) s = .next (s.faulted 5))

/-- RD8 takes eight fresh samples, the first into bit 0, and leaves `CLK` = 1, `DIR` = OUT and `DIO`
UNKNOWN (40_transport R111, R112). The sample values are the environment's (log 4). -/
def Obligations.Rd8AssemblesSamples : Prop :=
  decodeRequest ⟨.hostOp, [0x05]⟩ = .ok .rd8
    ∧ ∀ s : State, s.Ready →
      (s.stb = false → exec .rd8 s = .next
        { s with
          clk := true
          dio := .unknown
          dir := .out
          pc := s.pc + 1
          trace := s.trace ++
            ([.mode .inPu] ++ (List.range 8).flatMap (fun i => readSlotEvents (s.sampleAt i)) ++ [.mode .out])
          results := s.results ++ [.byte (byteOfSamples s.sampleAt)]
          answers := s.answers.drop 8
          draws := s.draws + 8 })
      ∧ (s.stb = true → exec .rd8 s = .next (s.faulted 5))

/-- The byte that RD8 returns has sample i in bit i: the first sampled bit lands in bit 0, the eighth in bit 7
(20_memory R53, 40_transport R112). The sample values are the environment's (log 4). -/
def Obligations.FirstSampleLandsInBitZero : Prop :=
  ∀ s : State, s.Ready → s.stb = false →
    ∃ (t : State) (v : Byte), exec .rd8 s = .next t ∧ t.results = s.results ++ [.byte v]
      ∧ ∀ i : Nat, i < 8 → v.getLsbD i = s.sampleAt i

/-- A word goes out low byte first: WR16 drives the same levels on DIO, in the same order, as WR8 of the
low byte and WR8 of the high byte (20_memory R54). -/
def Obligations.WordGoesOutLowByteFirst : Prop :=
  ∀ (lo hi : Byte) (s : State), s.Ready → s.stb = false →
    ∃ t u, exec (.wr16 (hi ++ lo)) s = .next t ∧ execAll [.wr8 lo, .wr8 hi] s = .next u
      ∧ dataLevels t.trace = dataLevels u.trace ∧ t.dio = u.dio ∧ bitDelays u.trace = bitDelays t.trace + 1

/-- The seven wire commands are WR8 of their byte, in every state, and complete inside a transaction
(30_encoding R80 to R84; that they run as instructions is the model's choice, log 1). -/
def Obligations.WireCommandsAreWr8OfTheirByte : Prop :=
  ∀ c : BitVec 4, ∀ ib ∈ ([(.dm6g12s, 0x02), (.dm7g11s, 0x03), (.dataWriteInc, 0x40), (.dataRead, 0x42),
      (.dataWriteFixed, 0x44), (.displayControl c, 0x80 + c.setWidth 8), (.addressSet, 0xC0)] :
      List (Instr × Byte)),
    ∀ s : State,
      exec ib.1 s = exec (.wr8 ib.2) s
      ∧ (s.Ready → s.stb = false → exec ib.1 s = .next
        { s with
          clk := true
          dio := .known (ib.2.getLsbD 7)
          pc := s.pc + 1
          trace := s.trace ++ writeEvents ib.2 })

/-! ### Configuration -/

/-- SETBRIGHT stores {on, level[2:0]} and sends nothing; a level above 7 faults (42_sequencer R171). -/
def Obligations.SetbrightStoresControlValue : Prop :=
  (∀ level : Byte, decodeRequest ⟨.hostOp, [0x08, level, 0x00]⟩ = .ok (.setbright level false)
      ∧ decodeRequest ⟨.hostOp, [0x08, level, 0x01]⟩ = .ok (.setbright level true))
    ∧ ∀ (level : Byte) (on : Bool) (s : State), s.Ready →
      (level.toNat ≤ 7 → exec (.setbright level on) s = .next
        { s with ctrl := BitVec.ofNat 4 ((if on then 8 else 0) + level.toNat), pc := s.pc + 1 })
      ∧ (level.toNat > 7 → exec (.setbright level on) s = .next (s.faulted 4))

/-- SETFONT and SETFILTER write their register and nothing else (42_sequencer R172, R173). -/
def Obligations.SelectionsWriteTheirRegister : Prop :=
  (∀ sel : Sel, decodeRequest ⟨.hostOp, [0x09, selByte sel]⟩ = .ok (.setfont sel)
      ∧ decodeRequest ⟨.hostOp, [0x0A, selByte sel]⟩ = .ok (.setfilter sel))
    ∧ ∀ (sel : Sel) (s : State), s.Ready →
      exec (.setfont sel) s = .next { s with fsel := sel, pc := s.pc + 1 }
      ∧ exec (.setfilter sel) s = .next { s with rsel := sel, pc := s.pc + 1 }

/-- A brightness is not sent by SETBRIGHT; the next refresh sends it in the display-control byte
(42_sequencer R171, 30_encoding R83, 70_reset R259). -/
def Obligations.BrightnessReachesTheNextRefresh : Prop :=
  ∀ (level : Byte) (on : Bool) (s : State), s.Ready → s.stb = true → level.toNat ≤ 7 →
    ∃ t u, exec (.setbright level on) s = .next t ∧ exec .clear t = .next u
      ∧ t.trace = s.trace
      ∧ u.trace = s.trace ++ refreshEvents (Seven.ofFn fun _ => 0x0000)
          (BitVec.ofNat 8 (0x80 + (if on then 8 else 0) + level.toNat))

/-! ### Display -/

/-- DIGIT (42_sequencer R175), with the order of its checks (60_exceptions R224). -/
def Obligations.DigitStoresGlyphAndRefreshes : Prop :=
  (∀ code pos : Byte, decodeRequest ⟨.hostOp, [0x10, code, pos]⟩ = .ok (.digit code pos))
    ∧ ∀ (code pos : Byte) (s : State), s.Ready →
      (s.stb = true → pos.toNat ≤ 4 → code.toNat ≤ 20 →
        exec (.digit code pos) s = .next (s.displayed (s.dig.set pos.toNat (fontLookup s.fsel code))))
      ∧ (s.stb = false → exec (.digit code pos) s = .next (s.faulted 5))
      ∧ (s.stb = true → pos.toNat > 4 → exec (.digit code pos) s = .next (s.faulted 1))
      ∧ (s.stb = true → pos.toNat ≤ 4 → code.toNat > 20 → exec (.digit code pos) s = .next (s.faulted 3))

/-- DIGITS (42_sequencer R176): position pos + j takes the glyph of code j, the others stay. -/
def Obligations.DigitsStoreGlyphsAndRefresh : Prop :=
  (∀ (codes : List Byte) (pos : Byte), codes.length < 256 →
      decodeRequest ⟨.hostOp, 0x11 :: BitVec.ofNat 8 codes.length :: (codes ++ [pos])⟩
        = .ok (.digits codes pos))
    ∧ ∀ (codes : List Byte) (pos : Byte) (s : State), s.Ready →
      (s.stb = true → pos.toNat + codes.length ≤ 5 → pos.toNat ≤ 4 → (∀ c ∈ codes, c.toNat ≤ 20) →
        ∃ dig : Five Byte,
          (∀ q : Fin 5, dig.get q =
            if pos.toNat ≤ q.val then
              (codes[q.val - pos.toNat]?.map (fontLookup s.fsel)).getD (s.dig.get q)
            else s.dig.get q)
          ∧ exec (.digits codes pos) s = .next (s.displayed dig))
      ∧ (s.stb = false → exec (.digits codes pos) s = .next (s.faulted 5))
      ∧ (s.stb = true → pos.toNat > 4 → exec (.digits codes pos) s = .next (s.faulted 1))
      ∧ (s.stb = true → pos.toNat ≤ 4 → pos.toNat + codes.length > 5 →
        exec (.digits codes pos) s = .next (s.faulted 2))
      ∧ (s.stb = true → pos.toNat ≤ 4 → pos.toNat + codes.length ≤ 5 → (∃ c ∈ codes, c.toNat > 20) →
        exec (.digits codes pos) s = .next (s.faulted 3))

/-- SEG (42_sequencer R177). -/
def Obligations.SegStoresMaskAndRefreshes : Prop :=
  (∀ mask pos : Byte, decodeRequest ⟨.hostOp, [0x12, mask, pos]⟩ = .ok (.seg mask pos))
    ∧ ∀ (mask pos : Byte) (s : State), s.Ready →
      (s.stb = true → pos.toNat ≤ 4 →
        exec (.seg mask pos) s = .next (s.displayed (s.dig.set pos.toNat mask)))
      ∧ (s.stb = false → exec (.seg mask pos) s = .next (s.faulted 5))
      ∧ (s.stb = true → pos.toNat > 4 → exec (.seg mask pos) s = .next (s.faulted 1))

/-- SEGS (42_sequencer R178): position pos + j takes mask j, the others stay. -/
def Obligations.SegsStoreMasksAndRefresh : Prop :=
  (∀ (masks : List Byte) (pos : Byte), masks.length < 256 →
      decodeRequest ⟨.hostOp, 0x13 :: BitVec.ofNat 8 masks.length :: (masks ++ [pos])⟩
        = .ok (.segs masks pos))
    ∧ ∀ (masks : List Byte) (pos : Byte) (s : State), s.Ready →
      (s.stb = true → pos.toNat ≤ 4 → pos.toNat + masks.length ≤ 5 →
        ∃ dig : Five Byte,
          (∀ q : Fin 5, dig.get q =
            if pos.toNat ≤ q.val then masks[q.val - pos.toNat]?.getD (s.dig.get q) else s.dig.get q)
          ∧ exec (.segs masks pos) s = .next (s.displayed dig))
      ∧ (s.stb = false → exec (.segs masks pos) s = .next (s.faulted 5))
      ∧ (s.stb = true → pos.toNat > 4 → exec (.segs masks pos) s = .next (s.faulted 1))
      ∧ (s.stb = true → pos.toNat ≤ 4 → pos.toNat + masks.length > 5 →
        exec (.segs masks pos) s = .next (s.faulted 2))

/-- CLEAR leaves `DIG` all zero whatever `FSEL` is, and refreshes once (42_sequencer R179). -/
def Obligations.ClearBlanksAndRefreshes : Prop :=
  decodeRequest ⟨.hostOp, [0x14]⟩ = .ok .clear
    ∧ ∀ s : State, s.Ready →
      (s.stb = true → exec .clear s = .next (s.displayed (Five.all 0x00)))
      ∧ (s.stb = false → exec .clear s = .next (s.faulted 5))

/-- A refresh is the four transactions of 42_sequencer R180, in R181's order, made of transport operations:
SEGS of an empty list at 0, which R178 makes one refresh, leaves the machine as the 19 operations do, `pc`
apart. -/
def Obligations.RefreshEqualsHostFramedTransactions : Prop :=
  ∀ s : State, s.Ready → s.stb = true →
    ∃ t, exec (.segs [] 0) s = .next t
      ∧ execAll
        ([.beginTxn, .wr8 0x40, .endTxn, .beginTxn, .wr8 0xC0]
          ++ (remapMatrix (remapTable s.rsel) s.dig).toList.map .wr16
          ++ [.endTxn, .beginTxn, .wr8 0x03, .endTxn, .beginTxn, .wr8 (0x80 ||| s.ctrl.setWidth 8), .endTxn]) s
        = .next { t with pc := s.pc + 19 }

/-! ### Decoder -/

/-- FONT answers the selected table's entry (41_decoder R140); it writes nothing. -/
def Obligations.FontAnswersTableEntry : Prop :=
  (∀ (sel : Sel) (code : Byte), decodeRequest ⟨.hostOp, [0x1C, selByte sel, code]⟩ = .ok (.font sel code))
    ∧ ∀ (sel : Sel) (code : Byte) (s : State), s.Ready →
      (code.toNat ≤ 20 → exec (.font sel code) s = .next
        { s with results := s.results ++ [.byte (fontLookup sel code)], pc := s.pc + 1 })
      ∧ (code.toNat > 20 → exec (.font sel code) s = .next (s.faulted 3))

/-- No font entry sets bit 7, code 0 is 0x3F and code 16 is 0x00 in both tables (41_decoder R141, R142). -/
def Obligations.FontEntriesKeepKnownValues : Prop :=
  ∀ sel : Sel, (∀ code : Byte, (fontLookup sel code).getLsbD 7 = false)
    ∧ fontLookup sel 0 = 0x3F ∧ fontLookup sel 16 = 0x00

/-- REMAP answers seven words: bit L - 1 of word g is set exactly when some digit's cell (s, L) at grid g
finds its segment bit s set (41_decoder R145, R151); it writes nothing and never faults. -/
def Obligations.RemapAnswersMatrix : Prop :=
  (∀ (sel : Sel) (a b c d e : Byte),
      decodeRequest ⟨.hostOp, [0x1D, selByte sel, a, b, c, d, e]⟩ = .ok (.remap sel ⟨a, b, c, d, e⟩))
    ∧ ∀ (sel : Sel) (dig : Five Byte) (s : State), s.Ready →
      ∃ m : Seven Word,
        exec (.remap sel dig) s = .next { s with results := s.results ++ [.matrix m], pc := s.pc + 1 }
          ∧ ∀ (g : Fin 7) (k : Nat), (m.get g).getLsbD k = true ↔
            ∃ p : Fin 5, (dig.get p).getLsbD (remapTable sel g p).seg = true ∧ k + 1 = (remapTable sel g p).line

/-- The pairs of tables that the open data can give are exactly those that rules R147 to R149 of
41_decoder allow: WF1 to WF4 of both, N1 and N2 of the normal one, I1 of the pair. -/
def Obligations.RemapTablesAreExactlyTheAdmissibleOnes : Prop :=
  ∀ tabN tabI : RemapTable,
    (tabN.WellFormed ∧ tabN.NormalRules ∧ tabI.WellFormed ∧ InvertedRule tabN tabI)
      ↔ ∃ d : RemapData, tabN = tableN d ∧ tabI = tableI d

/-- Two digit buffers that differ only in bit 7 give the same matrix, under every table (41_decoder R150). -/
def Obligations.RemapIgnoresReservedBit : Prop :=
  ∀ (tab : RemapTable) (a b : Five Byte),
    (∀ (p : Fin 5) (k : Nat), k < 7 → (a.get p).getLsbD k = (b.get p).getLsbD k) →
    remapMatrix tab a = remapMatrix tab b

/-- With a well-formed table only bits 1, 2, 7, 8 and 9 of a word can be set, all masks 0xFF give 0x0386
in every word, and masks of 0x00 and 0x80 alone give 0x0000 (41_decoder R152). -/
def Obligations.RemapUsesFiveLines : Prop :=
  ∀ tab : RemapTable, tab.WellFormed →
    (∀ (dig : Five Byte) (g : Fin 7) (k : Nat), k ∉ [1, 2, 7, 8, 9] →
      ((remapMatrix tab dig).get g).getLsbD k = false)
    ∧ remapMatrix tab (Five.all 0xFF) = Seven.ofFn (fun _ => 0x0386)
    ∧ ∀ dig : Five Byte, (∀ p, dig.get p = 0x00 ∨ dig.get p = 0x80) →
      remapMatrix tab dig = Seven.ofFn (fun _ => 0x0000)

/-- One lit segment lights its digit's line at exactly the grids whose cell tests it; for digit 4 of the
normal table that is one grid, on SG3 (41_decoder R154, R148). -/
def Obligations.IsolatedSegmentLightsItsCells : Prop :=
  ∀ (tab : RemapTable) (seg : Fin 7),
    (∀ (p : Fin 5) (g : Fin 7), (remapMatrix tab ((Five.all 0x00).set p (1#8 <<< seg.val))).get g =
      if (tab g p).seg = seg then 1#16 <<< ((tab g p).line - 1) else 0x0000)
    ∧ (tab.NormalRules →
      ∃! g : Fin 7, (remapMatrix tab ((Five.all 0x00).set 4 (1#8 <<< seg.val))).get g = 0x0004)

/-- The matrix of an OR of two buffers is the OR of their matrices, word by word (vector D-16, from
41_decoder R145). -/
def Obligations.RemapDistributesOverOr : Prop :=
  ∀ (tab : RemapTable) (a b c : Five Byte) (g : Fin 7), (∀ p, c.get p = a.get p ||| b.get p) →
    (remapMatrix tab c).get g = (remapMatrix tab a).get g ||| (remapMatrix tab b).get g

/-! ### Keys -/

/-- KEYDECODE: result bit 2i is bit 0 or bit 3 of byte i, bit 16 + 2i is bit 1 or bit 4, and every other
bit is 0 (42_sequencer R191). -/
def Obligations.KeydecodeFollowsBitRule : Prop :=
  (∀ a b c d e : Byte, decodeRequest ⟨.hostOp, [0x1E, a, b, c, d, e]⟩ = .ok (.keydecode ⟨a, b, c, d, e⟩))
    ∧ ∀ (raw : Five Byte) (s : State), s.Ready →
      ∃ r : BitVec 32,
        exec (.keydecode raw) s = .next { s with results := s.results ++ [.keys r], pc := s.pc + 1 }
          ∧ (∀ i : Fin 5,
            r.getLsbD (2 * i) = ((raw.get i).getLsbD 0 || (raw.get i).getLsbD 3)
              ∧ r.getLsbD (16 + 2 * i) = ((raw.get i).getLsbD 1 || (raw.get i).getLsbD 4))
          ∧ ∀ n : Nat, (∀ i : Fin 5, n ≠ 2 * i ∧ n ≠ 16 + 2 * i) → r.getLsbD n = false

/-- GETBUTTONS reads five bytes of eight fresh samples each in one transaction, answers their decode, and
leaves the bus idle with `DIO` UNKNOWN (42_sequencer R190). The sample values are the environment's. -/
def Obligations.GetbuttonsReadsFiveBytes : Prop :=
  decodeRequest ⟨.hostOp, [0x18]⟩ = .ok .getbuttons
    ∧ ∀ s : State, s.Ready →
      (s.stb = true → exec .getbuttons s = .next
        { s with
          stb := true
          clk := true
          dio := .unknown
          dir := .out
          pc := s.pc + 1
          trace := s.trace ++ keyReadEvents s.sampleAt
          results := s.results ++ [.keys (keyMask s.rawKeys)]
          answers := s.answers.drop 40
          draws := s.draws + 40 })
      ∧ (s.stb = false → exec .getbuttons s = .next (s.faulted 5))

/-- GETBUTTONS is BEGIN, WR8 0x42, five RD8, END: given the same samples the same events, and its result is
the KEYDECODE of the five bytes those RD8s answer (42_sequencer R190, program P2). That both runs take the same
samples is the model's choice: a sample is a function of `answers` and `draws`, equal in the two (log 4). -/
def Obligations.GetbuttonsEqualsHostFramedRead : Prop :=
  ∀ s : State, s.Ready → s.stb = true →
    ∃ (t u : State) (raw : Five Byte),
      exec .getbuttons s = .next t
        ∧ execAll [.beginTxn, .wr8 0x42, .rd8, .rd8, .rd8, .rd8, .rd8, .endTxn] s = .next u
        ∧ t.results = s.results ++ [.keys (keyMask raw)]
        ∧ u = { t with pc := s.pc + 8, results := s.results ++ raw.toList.map .byte }
end

