-- ==== Sys2Proof/Laws/Decode.lean ====
section
/-! SUPPORT. What the decoder's readers answer on the encoder's operand bytes, what they were given where
they answer, and what the assembler makes. -/

namespace Sys2Proof

@[simp] theorem readByte_cons (b : Byte) (rest : List Byte) : readByte (b :: rest) = .ok (b, rest) := rfl

@[simp] theorem readSel_selByte (sel : Sel) (rest : List Byte) :
    readSel (selByte sel :: rest) = .ok (sel, rest) := by
  cases sel <;> rfl

@[simp] theorem readOn_onByte (on : Bool) (rest : List Byte) :
    readOn (onByte on :: rest) = .ok (on, rest) := by
  cases on <;> rfl

@[simp] theorem readFive_toList (v : Five Byte) (rest : List Byte) :
    readFive (v.toList ++ rest) = .ok (v, rest) := rfl

/-- A word's bytes, low byte first, read back as the word (30_encoding R71). -/
@[simp] theorem readWord_bytes (v : Word) (rest : List Byte) :
    readWord (v.extractLsb' 0 8 :: v.extractLsb' 8 8 :: rest) = .ok (v, rest) := by
  simp only [readWord, Except.ok.injEq, Prod.mk.injEq, and_true]
  ext i hi
  simp only [BitVec.getElem_append, BitVec.getElem_extractLsb']
  split
  · simp [BitVec.getLsbD_eq_getElem (show i < 16 by omega)]
  · rw [show 8 + (i - 8) = i from by omega, BitVec.getLsbD_eq_getElem (show i < 16 by omega)]

/-- A list that fits its length byte reads back as the list (30_encoding R71). -/
theorem readList_listBytes {l : List Byte} (h : listFits l = true) (rest : List Byte) :
    readList (listBytes l ++ rest) = .ok (l, rest) := by
  have hl : l.length < 256 := by simpa [listFits] using h
  have hn : (BitVec.ofNat 8 l.length).toNat = l.length := by
    simp [Nat.mod_eq_of_lt hl]
  simp [listBytes, readList, hn, -BitVec.toNat_ofNat]

/-- A list that was read fits its length byte, and its bytes are the ones read. -/
theorem readList_ok {bs l rest : List Byte} (h : readList bs = .ok (l, rest)) :
    listFits l = true ∧ bs = listBytes l ++ rest := by
  cases bs with
  | nil => simp [readList] at h
  | cons n tail =>
    simp only [readList] at h
    split at h
    · simp at h
    · next hlt =>
      simp only [Except.ok.injEq, Prod.mk.injEq] at h
      obtain ⟨rfl, rfl⟩ := h
      have hlen : (tail.take n.toNat).length = n.toNat := by
        rw [List.length_take]; omega
      refine ⟨?_, ?_⟩
      · have := n.isLt
        simp only [listFits, hlen]
        simpa using this
      · simp [listBytes, hlen]

/-! ### Inversion: what the bytes were -/

theorem one_ok {α : Type} {read : List Byte → Decoded α} {make : α → Instr} {bs rest : List Byte}
    {i : Instr} (h : one read make bs = .ok (i, rest)) :
    ∃ a, read bs = .ok (a, rest) ∧ i = make a := by
  unfold one at h
  split at h
  · next a r hr =>
    simp only [Except.ok.injEq, Prod.mk.injEq] at h
    exact ⟨a, by rw [hr, h.2], h.1.symm⟩
  · simp at h

theorem two_ok {α β : Type} {readA : List Byte → Decoded α} {readB : List Byte → Decoded β}
    {make : α → β → Instr} {bs rest : List Byte} {i : Instr}
    (h : two readA readB make bs = .ok (i, rest)) :
    ∃ a b mid, readA bs = .ok (a, mid) ∧ readB mid = .ok (b, rest) ∧ i = make a b := by
  unfold two at h
  split at h
  · next a mid hr =>
    obtain ⟨b, hb, rfl⟩ := one_ok h
    exact ⟨a, b, mid, hr, hb, rfl⟩
  · simp at h

theorem readByte_ok {bs rest : List Byte} {b : Byte} (h : readByte bs = .ok (b, rest)) :
    bs = b :: rest := by
  cases bs <;> simp_all [readByte]

theorem readWord_ok {bs rest : List Byte} {v : Word} (h : readWord bs = .ok (v, rest)) :
    bs = v.extractLsb' 0 8 :: v.extractLsb' 8 8 :: rest := by
  rcases bs with _ | ⟨lo, _ | ⟨hi, tail⟩⟩ <;>
    simp only [readWord, reduceCtorEq, Except.ok.injEq, Prod.mk.injEq] at h
  obtain ⟨rfl, rfl⟩ := h
  have happ : ∀ k, (hi ++ lo).getLsbD k = if k < 8 then lo.getLsbD k else hi.getLsbD (k - 8) :=
    fun k => by rw [BitVec.getLsbD_append]
  have hlo : (hi ++ lo).extractLsb' 0 8 = lo := by
    apply BitVec.eq_of_getLsbD_eq
    intro k hk
    rw [BitVec.getLsbD_extractLsb', happ]
    simp [hk]
  have hhi : (hi ++ lo).extractLsb' 8 8 = hi := by
    apply BitVec.eq_of_getLsbD_eq
    intro k hk
    rw [BitVec.getLsbD_extractLsb', happ]
    simp [hk]
  rw [hlo, hhi]

theorem readSel_ok {bs rest : List Byte} {sel : Sel} (h : readSel bs = .ok (sel, rest)) :
    bs = selByte sel :: rest := by
  cases bs with
  | nil => simp [readSel] at h
  | cons b tail =>
    simp only [readSel] at h
    split at h
    · next hb => cases h; rw [hb]; rfl
    · split at h
      · next hb => cases h; rw [hb]; rfl
      · simp at h

theorem readOn_ok {bs rest : List Byte} {on : Bool} (h : readOn bs = .ok (on, rest)) :
    bs = onByte on :: rest := by
  cases bs with
  | nil => simp [readOn] at h
  | cons b tail =>
    simp only [readOn] at h
    split at h
    · next hb => cases h; rw [hb]; rfl
    · split at h
      · next hb => cases h; rw [hb]; rfl
      · simp at h

theorem readFive_ok {bs rest : List Byte} {v : Five Byte} (h : readFive bs = .ok (v, rest)) :
    bs = v.toList ++ rest := by
  unfold readFive at h
  split at h
  · cases h; rfl
  · simp at h

/-- A request decodes when its interface's decoder reads all of its bytes. -/
theorem decodeRequest_ok {r : Request} {i : Instr} :
    decodeRequest r = .ok i ↔ decodeAt r.port r.bytes = .ok (i, []) := by
  unfold decodeRequest
  split <;> simp_all

/-! ### The assembler -/

/-- What a program assembles to: encodings of well-formed operations, and nothing else (30_encoding R90; log
15). -/
theorem Machine.mem_assemble {lines : List (List Machine.AsmToken)} {rs : List Request} {r : Request}
    (h : Machine.assemble lines = some rs) (hr : r ∈ rs) : ∃ i, i.wellFormed = true ∧ r = encode i := by
  induction lines generalizing rs with
  | nil => simp_all [Machine.assemble]
  | cons line lines ih =>
    unfold Machine.assemble at h
    split at h
    · next rs₁ rs₂ h₁ h₂ =>
      obtain ⟨is, -, hi⟩ := Option.bind_eq_some_iff.1 h₁
      obtain rfl := (Option.some.inj h).symm
      unfold Machine.asmRequests at hi
      split at hi
      · next hwf =>
        obtain rfl := (Option.some.inj hi).symm
        rcases List.mem_append.1 hr with hm | hm
        · obtain ⟨i, hmem, rfl⟩ := List.mem_map.1 hm
          exact ⟨i, List.all_eq_true.1 hwf i hmem, rfl⟩
        · exact ih h₂ hm
      · simp at hi
    · simp at h

end Sys2Proof
end

