-- ==== Sys2Proof/Laws/State.lean ====
section
/-! SUPPORT. One lemma for each field of State after each update of Machine/Ops.lean. -/

namespace Sys2Proof.Machine

variable (s : State)

/-! ### `s.drive .stb lv` -/

@[simp] theorem State.drive_stb_stb (lv : Level) : (s.drive .stb lv).stb = lv := rfl
@[simp] theorem State.drive_stb_clk (lv : Level) : (s.drive .stb lv).clk = s.clk := rfl
@[simp] theorem State.drive_stb_dio (lv : Level) : (s.drive .stb lv).dio = s.dio := rfl
@[simp] theorem State.drive_stb_dir (lv : Level) : (s.drive .stb lv).dir = s.dir := rfl
@[simp] theorem State.drive_stb_dig (lv : Level) : (s.drive .stb lv).dig = s.dig := rfl
@[simp] theorem State.drive_stb_ctrl (lv : Level) : (s.drive .stb lv).ctrl = s.ctrl := rfl
@[simp] theorem State.drive_stb_fsel (lv : Level) : (s.drive .stb lv).fsel = s.fsel := rfl
@[simp] theorem State.drive_stb_rsel (lv : Level) : (s.drive .stb lv).rsel = s.rsel := rfl
@[simp] theorem State.drive_stb_bitDelay (lv : Level) : (s.drive .stb lv).bitDelay = s.bitDelay := rfl
@[simp] theorem State.drive_stb_fault (lv : Level) : (s.drive .stb lv).fault = s.fault := rfl
@[simp] theorem State.drive_stb_pc (lv : Level) : (s.drive .stb lv).pc = s.pc := rfl
@[simp] theorem State.drive_stb_program (lv : Level) : (s.drive .stb lv).program = s.program := rfl
@[simp] theorem State.drive_stb_trace (lv : Level) : (s.drive .stb lv).trace = s.trace ++ [.drive .stb lv] := rfl
@[simp] theorem State.drive_stb_results (lv : Level) : (s.drive .stb lv).results = s.results := rfl
@[simp] theorem State.drive_stb_answers (lv : Level) : (s.drive .stb lv).answers = s.answers := rfl
@[simp] theorem State.drive_stb_draws (lv : Level) : (s.drive .stb lv).draws = s.draws := rfl

/-! ### `s.drive .clk lv` -/

@[simp] theorem State.drive_clk_stb (lv : Level) : (s.drive .clk lv).stb = s.stb := rfl
@[simp] theorem State.drive_clk_clk (lv : Level) : (s.drive .clk lv).clk = lv := rfl
@[simp] theorem State.drive_clk_dio (lv : Level) : (s.drive .clk lv).dio = s.dio := rfl
@[simp] theorem State.drive_clk_dir (lv : Level) : (s.drive .clk lv).dir = s.dir := rfl
@[simp] theorem State.drive_clk_dig (lv : Level) : (s.drive .clk lv).dig = s.dig := rfl
@[simp] theorem State.drive_clk_ctrl (lv : Level) : (s.drive .clk lv).ctrl = s.ctrl := rfl
@[simp] theorem State.drive_clk_fsel (lv : Level) : (s.drive .clk lv).fsel = s.fsel := rfl
@[simp] theorem State.drive_clk_rsel (lv : Level) : (s.drive .clk lv).rsel = s.rsel := rfl
@[simp] theorem State.drive_clk_bitDelay (lv : Level) : (s.drive .clk lv).bitDelay = s.bitDelay := rfl
@[simp] theorem State.drive_clk_fault (lv : Level) : (s.drive .clk lv).fault = s.fault := rfl
@[simp] theorem State.drive_clk_pc (lv : Level) : (s.drive .clk lv).pc = s.pc := rfl
@[simp] theorem State.drive_clk_program (lv : Level) : (s.drive .clk lv).program = s.program := rfl
@[simp] theorem State.drive_clk_trace (lv : Level) : (s.drive .clk lv).trace = s.trace ++ [.drive .clk lv] := rfl
@[simp] theorem State.drive_clk_results (lv : Level) : (s.drive .clk lv).results = s.results := rfl
@[simp] theorem State.drive_clk_answers (lv : Level) : (s.drive .clk lv).answers = s.answers := rfl
@[simp] theorem State.drive_clk_draws (lv : Level) : (s.drive .clk lv).draws = s.draws := rfl

/-! ### `s.drive .dio lv` -/

@[simp] theorem State.drive_dio_stb (lv : Level) : (s.drive .dio lv).stb = s.stb := rfl
@[simp] theorem State.drive_dio_clk (lv : Level) : (s.drive .dio lv).clk = s.clk := rfl
@[simp] theorem State.drive_dio_dio (lv : Level) : (s.drive .dio lv).dio = .known lv := rfl
@[simp] theorem State.drive_dio_dir (lv : Level) : (s.drive .dio lv).dir = s.dir := rfl
@[simp] theorem State.drive_dio_dig (lv : Level) : (s.drive .dio lv).dig = s.dig := rfl
@[simp] theorem State.drive_dio_ctrl (lv : Level) : (s.drive .dio lv).ctrl = s.ctrl := rfl
@[simp] theorem State.drive_dio_fsel (lv : Level) : (s.drive .dio lv).fsel = s.fsel := rfl
@[simp] theorem State.drive_dio_rsel (lv : Level) : (s.drive .dio lv).rsel = s.rsel := rfl
@[simp] theorem State.drive_dio_bitDelay (lv : Level) : (s.drive .dio lv).bitDelay = s.bitDelay := rfl
@[simp] theorem State.drive_dio_fault (lv : Level) : (s.drive .dio lv).fault = s.fault := rfl
@[simp] theorem State.drive_dio_pc (lv : Level) : (s.drive .dio lv).pc = s.pc := rfl
@[simp] theorem State.drive_dio_program (lv : Level) : (s.drive .dio lv).program = s.program := rfl
@[simp] theorem State.drive_dio_trace (lv : Level) : (s.drive .dio lv).trace = s.trace ++ [.drive .dio lv] := rfl
@[simp] theorem State.drive_dio_results (lv : Level) : (s.drive .dio lv).results = s.results := rfl
@[simp] theorem State.drive_dio_answers (lv : Level) : (s.drive .dio lv).answers = s.answers := rfl
@[simp] theorem State.drive_dio_draws (lv : Level) : (s.drive .dio lv).draws = s.draws := rfl

/-! ### `s.setMode m` -/

@[simp] theorem State.setMode_stb (m : Dir) : (s.setMode m).stb = s.stb := rfl
@[simp] theorem State.setMode_clk (m : Dir) : (s.setMode m).clk = s.clk := rfl
@[simp] theorem State.setMode_dio (m : Dir) : (s.setMode m).dio = s.dio := rfl
@[simp] theorem State.setMode_dir (m : Dir) : (s.setMode m).dir = m := rfl
@[simp] theorem State.setMode_dig (m : Dir) : (s.setMode m).dig = s.dig := rfl
@[simp] theorem State.setMode_ctrl (m : Dir) : (s.setMode m).ctrl = s.ctrl := rfl
@[simp] theorem State.setMode_fsel (m : Dir) : (s.setMode m).fsel = s.fsel := rfl
@[simp] theorem State.setMode_rsel (m : Dir) : (s.setMode m).rsel = s.rsel := rfl
@[simp] theorem State.setMode_bitDelay (m : Dir) : (s.setMode m).bitDelay = s.bitDelay := rfl
@[simp] theorem State.setMode_fault (m : Dir) : (s.setMode m).fault = s.fault := rfl
@[simp] theorem State.setMode_pc (m : Dir) : (s.setMode m).pc = s.pc := rfl
@[simp] theorem State.setMode_program (m : Dir) : (s.setMode m).program = s.program := rfl
@[simp] theorem State.setMode_trace (m : Dir) : (s.setMode m).trace = s.trace ++ [.mode m] := rfl
@[simp] theorem State.setMode_results (m : Dir) : (s.setMode m).results = s.results := rfl
@[simp] theorem State.setMode_answers (m : Dir) : (s.setMode m).answers = s.answers := rfl
@[simp] theorem State.setMode_draws (m : Dir) : (s.setMode m).draws = s.draws := rfl

/-! ### `s.wait k` -/

@[simp] theorem State.wait_stb (k : Nat) : (s.wait k).stb = s.stb := rfl
@[simp] theorem State.wait_clk (k : Nat) : (s.wait k).clk = s.clk := rfl
@[simp] theorem State.wait_dio (k : Nat) : (s.wait k).dio = s.dio := rfl
@[simp] theorem State.wait_dir (k : Nat) : (s.wait k).dir = s.dir := rfl
@[simp] theorem State.wait_dig (k : Nat) : (s.wait k).dig = s.dig := rfl
@[simp] theorem State.wait_ctrl (k : Nat) : (s.wait k).ctrl = s.ctrl := rfl
@[simp] theorem State.wait_fsel (k : Nat) : (s.wait k).fsel = s.fsel := rfl
@[simp] theorem State.wait_rsel (k : Nat) : (s.wait k).rsel = s.rsel := rfl
@[simp] theorem State.wait_bitDelay (k : Nat) : (s.wait k).bitDelay = s.bitDelay := rfl
@[simp] theorem State.wait_fault (k : Nat) : (s.wait k).fault = s.fault := rfl
@[simp] theorem State.wait_pc (k : Nat) : (s.wait k).pc = s.pc := rfl
@[simp] theorem State.wait_program (k : Nat) : (s.wait k).program = s.program := rfl
@[simp] theorem State.wait_trace (k : Nat) : (s.wait k).trace = s.trace ++ [.wait k] := rfl
@[simp] theorem State.wait_results (k : Nat) : (s.wait k).results = s.results := rfl
@[simp] theorem State.wait_answers (k : Nat) : (s.wait k).answers = s.answers := rfl
@[simp] theorem State.wait_draws (k : Nat) : (s.wait k).draws = s.draws := rfl

/-! ### `s.sampled` -/

@[simp] theorem State.sampled_stb : (s.sampled).stb = s.stb := rfl
@[simp] theorem State.sampled_clk : (s.sampled).clk = s.clk := rfl
@[simp] theorem State.sampled_dio : (s.sampled).dio = s.dio := rfl
@[simp] theorem State.sampled_dir : (s.sampled).dir = s.dir := rfl
@[simp] theorem State.sampled_dig : (s.sampled).dig = s.dig := rfl
@[simp] theorem State.sampled_ctrl : (s.sampled).ctrl = s.ctrl := rfl
@[simp] theorem State.sampled_fsel : (s.sampled).fsel = s.fsel := rfl
@[simp] theorem State.sampled_rsel : (s.sampled).rsel = s.rsel := rfl
@[simp] theorem State.sampled_bitDelay : (s.sampled).bitDelay = s.bitDelay := rfl
@[simp] theorem State.sampled_fault : (s.sampled).fault = s.fault := rfl
@[simp] theorem State.sampled_pc : (s.sampled).pc = s.pc := rfl
@[simp] theorem State.sampled_program : (s.sampled).program = s.program := rfl
@[simp] theorem State.sampled_trace : (s.sampled).trace = s.trace ++ [.sample s.sampleLevel] := rfl
@[simp] theorem State.sampled_results : (s.sampled).results = s.results := rfl
@[simp] theorem State.sampled_answers : (s.sampled).answers = s.answers.tail := rfl
@[simp] theorem State.sampled_draws : (s.sampled).draws = s.draws + 1 := rfl

/-! ### `s.forgetDio` -/

@[simp] theorem State.forgetDio_stb : (s.forgetDio).stb = s.stb := rfl
@[simp] theorem State.forgetDio_clk : (s.forgetDio).clk = s.clk := rfl
@[simp] theorem State.forgetDio_dio : (s.forgetDio).dio = .unknown := rfl
@[simp] theorem State.forgetDio_dir : (s.forgetDio).dir = s.dir := rfl
@[simp] theorem State.forgetDio_dig : (s.forgetDio).dig = s.dig := rfl
@[simp] theorem State.forgetDio_ctrl : (s.forgetDio).ctrl = s.ctrl := rfl
@[simp] theorem State.forgetDio_fsel : (s.forgetDio).fsel = s.fsel := rfl
@[simp] theorem State.forgetDio_rsel : (s.forgetDio).rsel = s.rsel := rfl
@[simp] theorem State.forgetDio_bitDelay : (s.forgetDio).bitDelay = s.bitDelay := rfl
@[simp] theorem State.forgetDio_fault : (s.forgetDio).fault = s.fault := rfl
@[simp] theorem State.forgetDio_pc : (s.forgetDio).pc = s.pc := rfl
@[simp] theorem State.forgetDio_program : (s.forgetDio).program = s.program := rfl
@[simp] theorem State.forgetDio_trace : (s.forgetDio).trace = s.trace := rfl
@[simp] theorem State.forgetDio_results : (s.forgetDio).results = s.results := rfl
@[simp] theorem State.forgetDio_answers : (s.forgetDio).answers = s.answers := rfl
@[simp] theorem State.forgetDio_draws : (s.forgetDio).draws = s.draws := rfl

/-! ### `s.setDig p v` -/

@[simp] theorem State.setDig_stb (p : Nat) (v : Byte) : (s.setDig p v).stb = s.stb := rfl
@[simp] theorem State.setDig_clk (p : Nat) (v : Byte) : (s.setDig p v).clk = s.clk := rfl
@[simp] theorem State.setDig_dio (p : Nat) (v : Byte) : (s.setDig p v).dio = s.dio := rfl
@[simp] theorem State.setDig_dir (p : Nat) (v : Byte) : (s.setDig p v).dir = s.dir := rfl
@[simp] theorem State.setDig_dig (p : Nat) (v : Byte) : (s.setDig p v).dig = s.dig.set p v := rfl
@[simp] theorem State.setDig_ctrl (p : Nat) (v : Byte) : (s.setDig p v).ctrl = s.ctrl := rfl
@[simp] theorem State.setDig_fsel (p : Nat) (v : Byte) : (s.setDig p v).fsel = s.fsel := rfl
@[simp] theorem State.setDig_rsel (p : Nat) (v : Byte) : (s.setDig p v).rsel = s.rsel := rfl
@[simp] theorem State.setDig_bitDelay (p : Nat) (v : Byte) : (s.setDig p v).bitDelay = s.bitDelay := rfl
@[simp] theorem State.setDig_fault (p : Nat) (v : Byte) : (s.setDig p v).fault = s.fault := rfl
@[simp] theorem State.setDig_pc (p : Nat) (v : Byte) : (s.setDig p v).pc = s.pc := rfl
@[simp] theorem State.setDig_program (p : Nat) (v : Byte) : (s.setDig p v).program = s.program := rfl
@[simp] theorem State.setDig_trace (p : Nat) (v : Byte) : (s.setDig p v).trace = s.trace := rfl
@[simp] theorem State.setDig_results (p : Nat) (v : Byte) : (s.setDig p v).results = s.results := rfl
@[simp] theorem State.setDig_answers (p : Nat) (v : Byte) : (s.setDig p v).answers = s.answers := rfl
@[simp] theorem State.setDig_draws (p : Nat) (v : Byte) : (s.setDig p v).draws = s.draws := rfl

/-! ### `s.setDigs p vs` -/

@[simp] theorem State.setDigs_stb (p : Nat) (vs : List Byte) : (s.setDigs p vs).stb = s.stb := rfl
@[simp] theorem State.setDigs_clk (p : Nat) (vs : List Byte) : (s.setDigs p vs).clk = s.clk := rfl
@[simp] theorem State.setDigs_dio (p : Nat) (vs : List Byte) : (s.setDigs p vs).dio = s.dio := rfl
@[simp] theorem State.setDigs_dir (p : Nat) (vs : List Byte) : (s.setDigs p vs).dir = s.dir := rfl
@[simp] theorem State.setDigs_dig (p : Nat) (vs : List Byte) : (s.setDigs p vs).dig = writeRun s.dig p vs := rfl
@[simp] theorem State.setDigs_ctrl (p : Nat) (vs : List Byte) : (s.setDigs p vs).ctrl = s.ctrl := rfl
@[simp] theorem State.setDigs_fsel (p : Nat) (vs : List Byte) : (s.setDigs p vs).fsel = s.fsel := rfl
@[simp] theorem State.setDigs_rsel (p : Nat) (vs : List Byte) : (s.setDigs p vs).rsel = s.rsel := rfl
@[simp] theorem State.setDigs_bitDelay (p : Nat) (vs : List Byte) : (s.setDigs p vs).bitDelay = s.bitDelay := rfl
@[simp] theorem State.setDigs_fault (p : Nat) (vs : List Byte) : (s.setDigs p vs).fault = s.fault := rfl
@[simp] theorem State.setDigs_pc (p : Nat) (vs : List Byte) : (s.setDigs p vs).pc = s.pc := rfl
@[simp] theorem State.setDigs_program (p : Nat) (vs : List Byte) : (s.setDigs p vs).program = s.program := rfl
@[simp] theorem State.setDigs_trace (p : Nat) (vs : List Byte) : (s.setDigs p vs).trace = s.trace := rfl
@[simp] theorem State.setDigs_results (p : Nat) (vs : List Byte) : (s.setDigs p vs).results = s.results := rfl
@[simp] theorem State.setDigs_answers (p : Nat) (vs : List Byte) : (s.setDigs p vs).answers = s.answers := rfl
@[simp] theorem State.setDigs_draws (p : Nat) (vs : List Byte) : (s.setDigs p vs).draws = s.draws := rfl

/-! ### `s.setCtrl v` -/

@[simp] theorem State.setCtrl_stb (v : BitVec 4) : (s.setCtrl v).stb = s.stb := rfl
@[simp] theorem State.setCtrl_clk (v : BitVec 4) : (s.setCtrl v).clk = s.clk := rfl
@[simp] theorem State.setCtrl_dio (v : BitVec 4) : (s.setCtrl v).dio = s.dio := rfl
@[simp] theorem State.setCtrl_dir (v : BitVec 4) : (s.setCtrl v).dir = s.dir := rfl
@[simp] theorem State.setCtrl_dig (v : BitVec 4) : (s.setCtrl v).dig = s.dig := rfl
@[simp] theorem State.setCtrl_ctrl (v : BitVec 4) : (s.setCtrl v).ctrl = v := rfl
@[simp] theorem State.setCtrl_fsel (v : BitVec 4) : (s.setCtrl v).fsel = s.fsel := rfl
@[simp] theorem State.setCtrl_rsel (v : BitVec 4) : (s.setCtrl v).rsel = s.rsel := rfl
@[simp] theorem State.setCtrl_bitDelay (v : BitVec 4) : (s.setCtrl v).bitDelay = s.bitDelay := rfl
@[simp] theorem State.setCtrl_fault (v : BitVec 4) : (s.setCtrl v).fault = s.fault := rfl
@[simp] theorem State.setCtrl_pc (v : BitVec 4) : (s.setCtrl v).pc = s.pc := rfl
@[simp] theorem State.setCtrl_program (v : BitVec 4) : (s.setCtrl v).program = s.program := rfl
@[simp] theorem State.setCtrl_trace (v : BitVec 4) : (s.setCtrl v).trace = s.trace := rfl
@[simp] theorem State.setCtrl_results (v : BitVec 4) : (s.setCtrl v).results = s.results := rfl
@[simp] theorem State.setCtrl_answers (v : BitVec 4) : (s.setCtrl v).answers = s.answers := rfl
@[simp] theorem State.setCtrl_draws (v : BitVec 4) : (s.setCtrl v).draws = s.draws := rfl

/-! ### `s.setFsel sel` -/

@[simp] theorem State.setFsel_stb (sel : Sel) : (s.setFsel sel).stb = s.stb := rfl
@[simp] theorem State.setFsel_clk (sel : Sel) : (s.setFsel sel).clk = s.clk := rfl
@[simp] theorem State.setFsel_dio (sel : Sel) : (s.setFsel sel).dio = s.dio := rfl
@[simp] theorem State.setFsel_dir (sel : Sel) : (s.setFsel sel).dir = s.dir := rfl
@[simp] theorem State.setFsel_dig (sel : Sel) : (s.setFsel sel).dig = s.dig := rfl
@[simp] theorem State.setFsel_ctrl (sel : Sel) : (s.setFsel sel).ctrl = s.ctrl := rfl
@[simp] theorem State.setFsel_fsel (sel : Sel) : (s.setFsel sel).fsel = sel := rfl
@[simp] theorem State.setFsel_rsel (sel : Sel) : (s.setFsel sel).rsel = s.rsel := rfl
@[simp] theorem State.setFsel_bitDelay (sel : Sel) : (s.setFsel sel).bitDelay = s.bitDelay := rfl
@[simp] theorem State.setFsel_fault (sel : Sel) : (s.setFsel sel).fault = s.fault := rfl
@[simp] theorem State.setFsel_pc (sel : Sel) : (s.setFsel sel).pc = s.pc := rfl
@[simp] theorem State.setFsel_program (sel : Sel) : (s.setFsel sel).program = s.program := rfl
@[simp] theorem State.setFsel_trace (sel : Sel) : (s.setFsel sel).trace = s.trace := rfl
@[simp] theorem State.setFsel_results (sel : Sel) : (s.setFsel sel).results = s.results := rfl
@[simp] theorem State.setFsel_answers (sel : Sel) : (s.setFsel sel).answers = s.answers := rfl
@[simp] theorem State.setFsel_draws (sel : Sel) : (s.setFsel sel).draws = s.draws := rfl

/-! ### `s.setRsel sel` -/

@[simp] theorem State.setRsel_stb (sel : Sel) : (s.setRsel sel).stb = s.stb := rfl
@[simp] theorem State.setRsel_clk (sel : Sel) : (s.setRsel sel).clk = s.clk := rfl
@[simp] theorem State.setRsel_dio (sel : Sel) : (s.setRsel sel).dio = s.dio := rfl
@[simp] theorem State.setRsel_dir (sel : Sel) : (s.setRsel sel).dir = s.dir := rfl
@[simp] theorem State.setRsel_dig (sel : Sel) : (s.setRsel sel).dig = s.dig := rfl
@[simp] theorem State.setRsel_ctrl (sel : Sel) : (s.setRsel sel).ctrl = s.ctrl := rfl
@[simp] theorem State.setRsel_fsel (sel : Sel) : (s.setRsel sel).fsel = s.fsel := rfl
@[simp] theorem State.setRsel_rsel (sel : Sel) : (s.setRsel sel).rsel = sel := rfl
@[simp] theorem State.setRsel_bitDelay (sel : Sel) : (s.setRsel sel).bitDelay = s.bitDelay := rfl
@[simp] theorem State.setRsel_fault (sel : Sel) : (s.setRsel sel).fault = s.fault := rfl
@[simp] theorem State.setRsel_pc (sel : Sel) : (s.setRsel sel).pc = s.pc := rfl
@[simp] theorem State.setRsel_program (sel : Sel) : (s.setRsel sel).program = s.program := rfl
@[simp] theorem State.setRsel_trace (sel : Sel) : (s.setRsel sel).trace = s.trace := rfl
@[simp] theorem State.setRsel_results (sel : Sel) : (s.setRsel sel).results = s.results := rfl
@[simp] theorem State.setRsel_answers (sel : Sel) : (s.setRsel sel).answers = s.answers := rfl
@[simp] theorem State.setRsel_draws (sel : Sel) : (s.setRsel sel).draws = s.draws := rfl

/-! ### `s.giveResult r` -/

@[simp] theorem State.giveResult_stb (r : HostResult) : (s.giveResult r).stb = s.stb := rfl
@[simp] theorem State.giveResult_clk (r : HostResult) : (s.giveResult r).clk = s.clk := rfl
@[simp] theorem State.giveResult_dio (r : HostResult) : (s.giveResult r).dio = s.dio := rfl
@[simp] theorem State.giveResult_dir (r : HostResult) : (s.giveResult r).dir = s.dir := rfl
@[simp] theorem State.giveResult_dig (r : HostResult) : (s.giveResult r).dig = s.dig := rfl
@[simp] theorem State.giveResult_ctrl (r : HostResult) : (s.giveResult r).ctrl = s.ctrl := rfl
@[simp] theorem State.giveResult_fsel (r : HostResult) : (s.giveResult r).fsel = s.fsel := rfl
@[simp] theorem State.giveResult_rsel (r : HostResult) : (s.giveResult r).rsel = s.rsel := rfl
@[simp] theorem State.giveResult_bitDelay (r : HostResult) : (s.giveResult r).bitDelay = s.bitDelay := rfl
@[simp] theorem State.giveResult_fault (r : HostResult) : (s.giveResult r).fault = s.fault := rfl
@[simp] theorem State.giveResult_pc (r : HostResult) : (s.giveResult r).pc = s.pc := rfl
@[simp] theorem State.giveResult_program (r : HostResult) : (s.giveResult r).program = s.program := rfl
@[simp] theorem State.giveResult_trace (r : HostResult) : (s.giveResult r).trace = s.trace := rfl
@[simp] theorem State.giveResult_results (r : HostResult) : (s.giveResult r).results = s.results ++ [r] := rfl
@[simp] theorem State.giveResult_answers (r : HostResult) : (s.giveResult r).answers = s.answers := rfl
@[simp] theorem State.giveResult_draws (r : HostResult) : (s.giveResult r).draws = s.draws := rfl

/-! ### `s.advance` -/

@[simp] theorem State.advance_stb : (s.advance).stb = s.stb := rfl
@[simp] theorem State.advance_clk : (s.advance).clk = s.clk := rfl
@[simp] theorem State.advance_dio : (s.advance).dio = s.dio := rfl
@[simp] theorem State.advance_dir : (s.advance).dir = s.dir := rfl
@[simp] theorem State.advance_dig : (s.advance).dig = s.dig := rfl
@[simp] theorem State.advance_ctrl : (s.advance).ctrl = s.ctrl := rfl
@[simp] theorem State.advance_fsel : (s.advance).fsel = s.fsel := rfl
@[simp] theorem State.advance_rsel : (s.advance).rsel = s.rsel := rfl
@[simp] theorem State.advance_bitDelay : (s.advance).bitDelay = s.bitDelay := rfl
@[simp] theorem State.advance_fault : (s.advance).fault = s.fault := rfl
@[simp] theorem State.advance_pc : (s.advance).pc = s.pc + 1 := rfl
@[simp] theorem State.advance_program : (s.advance).program = s.program := rfl
@[simp] theorem State.advance_trace : (s.advance).trace = s.trace := rfl
@[simp] theorem State.advance_results : (s.advance).results = s.results := rfl
@[simp] theorem State.advance_answers : (s.advance).answers = s.answers := rfl
@[simp] theorem State.advance_draws : (s.advance).draws = s.draws := rfl

/-! ### `s.raiseFault c` -/

@[simp] theorem State.raiseFault_stb (c : FaultCode) : (s.raiseFault c).stb = s.stb := rfl
@[simp] theorem State.raiseFault_clk (c : FaultCode) : (s.raiseFault c).clk = s.clk := rfl
@[simp] theorem State.raiseFault_dio (c : FaultCode) : (s.raiseFault c).dio = s.dio := rfl
@[simp] theorem State.raiseFault_dir (c : FaultCode) : (s.raiseFault c).dir = s.dir := rfl
@[simp] theorem State.raiseFault_dig (c : FaultCode) : (s.raiseFault c).dig = s.dig := rfl
@[simp] theorem State.raiseFault_ctrl (c : FaultCode) : (s.raiseFault c).ctrl = s.ctrl := rfl
@[simp] theorem State.raiseFault_fsel (c : FaultCode) : (s.raiseFault c).fsel = s.fsel := rfl
@[simp] theorem State.raiseFault_rsel (c : FaultCode) : (s.raiseFault c).rsel = s.rsel := rfl
@[simp] theorem State.raiseFault_bitDelay (c : FaultCode) : (s.raiseFault c).bitDelay = s.bitDelay := rfl
@[simp] theorem State.raiseFault_fault (c : FaultCode) : (s.raiseFault c).fault = ⟨true, c.bits⟩ := rfl
@[simp] theorem State.raiseFault_pc (c : FaultCode) : (s.raiseFault c).pc = s.pc := rfl
@[simp] theorem State.raiseFault_program (c : FaultCode) : (s.raiseFault c).program = s.program := rfl
@[simp] theorem State.raiseFault_trace (c : FaultCode) : (s.raiseFault c).trace = s.trace := rfl
@[simp] theorem State.raiseFault_results (c : FaultCode) : (s.raiseFault c).results = s.results := rfl
@[simp] theorem State.raiseFault_answers (c : FaultCode) : (s.raiseFault c).answers = s.answers := rfl
@[simp] theorem State.raiseFault_draws (c : FaultCode) : (s.raiseFault c).draws = s.draws := rfl

/-! ### `s.applyReset d` -/

@[simp] theorem State.applyReset_stb (d : Nat) : (s.applyReset d).stb = true := rfl
@[simp] theorem State.applyReset_clk (d : Nat) : (s.applyReset d).clk = true := rfl
@[simp] theorem State.applyReset_dio (d : Nat) : (s.applyReset d).dio = .known true := rfl
@[simp] theorem State.applyReset_dir (d : Nat) : (s.applyReset d).dir = .out := rfl
@[simp] theorem State.applyReset_dig (d : Nat) : (s.applyReset d).dig = Five.all 0 := rfl
@[simp] theorem State.applyReset_ctrl (d : Nat) : (s.applyReset d).ctrl = Config.ctrlReset := rfl
@[simp] theorem State.applyReset_fsel (d : Nat) : (s.applyReset d).fsel = .normal := rfl
@[simp] theorem State.applyReset_rsel (d : Nat) : (s.applyReset d).rsel = .normal := rfl
@[simp] theorem State.applyReset_bitDelay (d : Nat) : (s.applyReset d).bitDelay = d := rfl
@[simp] theorem State.applyReset_fault (d : Nat) : (s.applyReset d).fault = ⟨false, 0⟩ := rfl
@[simp] theorem State.applyReset_pc (d : Nat) : (s.applyReset d).pc = 0 := rfl
@[simp] theorem State.applyReset_program (d : Nat) : (s.applyReset d).program = s.program := rfl
@[simp] theorem State.applyReset_trace (d : Nat) : (s.applyReset d).trace = [] := rfl
@[simp] theorem State.applyReset_results (d : Nat) : (s.applyReset d).results = [] := rfl
@[simp] theorem State.applyReset_answers (d : Nat) : (s.applyReset d).answers = s.answers := rfl
@[simp] theorem State.applyReset_draws (d : Nat) : (s.applyReset d).draws = s.draws := rfl

/-! ### `s.present prog` -/

@[simp] theorem State.present_stb (prog : List Request) : (s.present prog).stb = s.stb := rfl
@[simp] theorem State.present_clk (prog : List Request) : (s.present prog).clk = s.clk := rfl
@[simp] theorem State.present_dio (prog : List Request) : (s.present prog).dio = s.dio := rfl
@[simp] theorem State.present_dir (prog : List Request) : (s.present prog).dir = s.dir := rfl
@[simp] theorem State.present_dig (prog : List Request) : (s.present prog).dig = s.dig := rfl
@[simp] theorem State.present_ctrl (prog : List Request) : (s.present prog).ctrl = s.ctrl := rfl
@[simp] theorem State.present_fsel (prog : List Request) : (s.present prog).fsel = s.fsel := rfl
@[simp] theorem State.present_rsel (prog : List Request) : (s.present prog).rsel = s.rsel := rfl
@[simp] theorem State.present_bitDelay (prog : List Request) : (s.present prog).bitDelay = s.bitDelay := rfl
@[simp] theorem State.present_fault (prog : List Request) : (s.present prog).fault = s.fault := rfl
@[simp] theorem State.present_pc (prog : List Request) : (s.present prog).pc = s.pc := rfl
@[simp] theorem State.present_program (prog : List Request) : (s.present prog).program = prog := rfl
@[simp] theorem State.present_trace (prog : List Request) : (s.present prog).trace = s.trace := rfl
@[simp] theorem State.present_results (prog : List Request) : (s.present prog).results = s.results := rfl
@[simp] theorem State.present_answers (prog : List Request) : (s.present prog).answers = s.answers := rfl
@[simp] theorem State.present_draws (prog : List Request) : (s.present prog).draws = s.draws := rfl

end Sys2Proof.Machine
end

