-- ==== Sys2Proof/Laws/Ops.lean ====
section
/-! SUPPORT. What the shared operations of Machine/Ops.lean and Machine/Flags.lean can do, said once. -/

namespace Sys2Proof.Machine

/-! ### The shape of an operation -/

/-- While a fault is recorded nothing is started (60_exceptions R223). -/
theorem State.perform_halted {s : State} (h : s.fault.fv = true) (check : Option FaultCode)
    (body : State → State) : s.perform check body = .next s := by
  simp [State.perform, h]

/-- A failed check raises its fault (60_exceptions R222). -/
theorem State.perform_fault {s : State} (h : s.Ready) (c : FaultCode) (body : State → State) :
    s.perform (some c) body = .next (s.raiseFault c) := by
  simp [State.perform, show s.fault.fv = false from h]

/-- With every check passed the body runs and `pc` advances (10_state R36). -/
theorem State.perform_ready {s : State} (h : s.Ready) (body : State → State) :
    s.perform none body = .next (body s).advance := by
  simp [State.perform, show s.fault.fv = false from h]

/-- Everything an operation can do: stay halted, record a fault, or complete. -/
theorem State.perform_cases {s t : State} {check : Option FaultCode} {body : State → State}
    (h : s.perform check body = .next t) :
    (s.fault.fv = true ∧ t = s) ∨
    (s.fault.fv = false ∧ ∃ c, check = some c ∧ t = s.raiseFault c) ∨
    (s.fault.fv = false ∧ check = none ∧ t = (body s).advance) := by
  unfold State.perform at h
  split at h
  · next hf => exact .inl ⟨hf, by cases h; rfl⟩
  · next hf =>
    have hf : s.fault.fv = false := by simpa using hf
    cases check with
    | some c => exact .inr (.inl ⟨hf, c, rfl, by cases h; rfl⟩)
    | none => exact .inr (.inr ⟨hf, rfl, by cases h; rfl⟩)

/-- An operation always answers a next state. -/
theorem State.perform_next (s : State) (check : Option FaultCode) (body : State → State) :
    ∃ t, s.perform check body = .next t := by
  unfold State.perform
  split
  · exact ⟨_, rfl⟩
  · cases check <;> exact ⟨_, rfl⟩

/-! ### Checks -/

@[simp] theorem firstFault_nil : firstFault [] = none := rfl

@[simp] theorem firstFault_some (c : FaultCode) (l : List (Option FaultCode)) :
    firstFault (some c :: l) = some c := rfl

@[simp] theorem firstFault_none (l : List (Option FaultCode)) :
    firstFault (none :: l) = firstFault l := rfl

/-- No fault is found exactly when every check passes. -/
theorem firstFault_eq_none {l : List (Option FaultCode)} :
    firstFault l = none ↔ ∀ c ∈ l, c = none := by
  induction l with
  | nil => simp
  | cons c l ih => cases c <;> simp [ih]

theorem State.checkInside_eq_none {s : State} : s.checkInside = none ↔ s.stb = false := by
  simp [State.checkInside, State.inTxn]

theorem State.checkOutside_eq_none {s : State} : s.checkOutside = none ↔ s.stb = true := by
  simp [State.checkOutside, State.inTxn]

theorem State.checkInside_of_stb {s : State} (h : s.stb = true) : s.checkInside = some .frame := by
  simp [State.checkInside, State.inTxn, h]

theorem State.checkOutside_of_stb {s : State} (h : s.stb = false) : s.checkOutside = some .frame := by
  simp [State.checkOutside, State.inTxn, h]

theorem checkPos_eq_none {pos : Byte} : checkPos pos = none ↔ pos.toNat ≤ 4 := by
  simp [checkPos]

theorem checkPos_of_gt {pos : Byte} (h : pos.toNat > 4) : checkPos pos = some .pos := by
  simp [checkPos, h]

theorem checkLen_eq_none {pos : Byte} {n : Nat} : checkLen pos n = none ↔ pos.toNat + n ≤ 5 := by
  simp [checkLen]

theorem checkLen_of_gt {pos : Byte} {n : Nat} (h : pos.toNat + n > 5) : checkLen pos n = some .len := by
  simp [checkLen, h]

theorem checkCode_eq_none {code : Byte} : checkCode code = none ↔ code.toNat ≤ 20 := by
  simp [checkCode]

theorem checkCode_of_gt {code : Byte} (h : code.toNat > 20) : checkCode code = some .code := by
  simp [checkCode, h]

theorem checkCodes_eq_none {codes : List Byte} : checkCodes codes = none ↔ ∀ c ∈ codes, c.toNat ≤ 20 := by
  simp [checkCodes]

theorem checkCodes_of_mem {codes : List Byte} {c : Byte} (hc : c ∈ codes) (h : c.toNat > 20) :
    checkCodes codes = some .code := by
  have : codes.any (fun c => decide (c.toNat > 20)) = true :=
    List.any_eq_true.2 ⟨c, hc, decide_eq_true h⟩
  simp [checkCodes, this]

theorem checkLevel_eq_none {level : Byte} : checkLevel level = none ↔ level.toNat ≤ 7 := by
  simp [checkLevel]

theorem checkLevel_of_gt {level : Byte} (h : level.toNat > 7) : checkLevel level = some .level := by
  simp [checkLevel, h]

/-- Every cause has a legal code (60_exceptions R221). -/
theorem FaultCode.bits_legal (c : FaultCode) : FaultReg.legal ⟨true, c.bits⟩ := by
  cases c <;> simp [FaultReg.legal, FaultCode.bits]

/-! ### The digit buffer -/

theorem Five.get_set {α : Type} (v : Five α) (p q : Fin 5) (x : α) :
    (v.set p x).get q = if q = p then x else v.get q := by
  fin_cases p <;> fin_cases q <;> rfl

theorem Five.set_of_ge {α : Type} (v : Five α) {p : Nat} (h : 5 ≤ p) (x : α) : v.set p x = v := by
  unfold Five.set
  split <;> first | rfl | omega

theorem writeRun_nil (d : Five Byte) (p : Nat) : writeRun d p [] = d := rfl

theorem writeRun_cons (d : Five Byte) (p : Nat) (v : Byte) (vs : List Byte) :
    writeRun d p (v :: vs) = writeRun (d.set p v) (p + 1) vs := rfl

/-- After a run position q holds the list's element q - p where there is one (20_memory R51). -/
theorem writeRun_get (d : Five Byte) (p : Nat) (vs : List Byte) (q : Fin 5) :
    (writeRun d p vs).get q = if p ≤ q.val then vs[q.val - p]?.getD (d.get q) else d.get q := by
  induction vs generalizing d p with
  | nil => simp [writeRun_nil]
  | cons v vs ih =>
    rw [writeRun_cons, ih]
    by_cases hp : p < 5
    · have hset := Five.get_set d ⟨p, hp⟩ q v
      simp only at hset
      rw [hset]
      by_cases hq : q.val = p
      · have : q = ⟨p, hp⟩ := Fin.ext hq
        simp [this]
      · have hne : ¬ q = ⟨p, hp⟩ := fun h => hq (congrArg Fin.val h)
        simp only [hne, if_false]
        by_cases hle : p ≤ q.val
        · have h1 : p + 1 ≤ q.val := by omega
          have h2 : q.val - p = (q.val - (p + 1)) + 1 := by omega
          simp [hle, h1, h2]
        · have h1 : ¬ p + 1 ≤ q.val := by omega
          simp [hle, h1]
    · rw [Five.set_of_ge _ (by omega)]
      have h1 : ¬ p ≤ q.val := by omega
      have h2 : ¬ p + 1 ≤ q.val := by omega
      simp [h1, h2]

/-! ### Samples -/

theorem State.sampleAt_zero (s : State) : s.sampleAt 0 = s.sampleLevel := by
  unfold State.sampleAt State.sampleLevel
  cases s.answers <;> simp

/-- The answers used and the draws taken decide every later sample. -/
theorem State.sampleAt_congr {s t : State} {n : Nat} (ha : t.answers = s.answers.drop n)
    (hd : t.draws = s.draws + n) (k : Nat) : t.sampleAt k = s.sampleAt (n + k) := by
  simp [State.sampleAt, ha, hd, List.getElem?_drop, Nat.add_assoc]

/-! ### Presenting -/

/-- What the host finds in the program after an entry is put at `pc`. -/
theorem putAt_get (program : List Request) (pc : Nat) (r : Request) :
    (putAt program pc r)[pc]? = some r := by
  induction pc generalizing program with
  | zero => cases program <;> rfl
  | succ n ih => cases program <;> simpa [putAt] using ih _

/-- The entries before `pc` stay. -/
theorem putAt_get_lt (program : List Request) (pc : Nat) (r : Request) {k : Nat}
    (hk : k < pc) (hlen : k < program.length) : (putAt program pc r)[k]? = program[k]? := by
  induction pc generalizing program k with
  | zero => omega
  | succ n ih =>
    cases program with
    | nil => simp at hlen
    | cons q rest =>
      cases k with
      | zero => rfl
      | succ k => simpa [putAt] using ih rest (by omega) (by simpa using hlen)

end Sys2Proof.Machine
end

