-- ==== Sys2Proof/Laws/Decoder.lean ====
section
/-! SUPPORT. Facts about the tables' building blocks and the bits of a grid word. -/

namespace Sys2Proof.Machine

/-- Different indices are different lines (41_decoder R147 WF3). -/
theorem usedLine_injective : Function.Injective usedLine := by decide

/-- Every line is one of the used ones (41_decoder R147 WF1). -/
theorem usedLine_mem (k : Fin 5) : usedLine k ∈ [2, 3, 8, 9, 10] := by
  fin_cases k <;> decide

/-- Every used line has its index. -/
theorem exists_usedLine {n : Nat} (h : n ∈ [2, 3, 8, 9, 10]) : ∃ k, usedLine k = n := by
  fin_cases h
  · exact ⟨0, rfl⟩
  · exact ⟨1, rfl⟩
  · exact ⟨2, rfl⟩
  · exact ⟨3, rfl⟩
  · exact ⟨4, rfl⟩

theorem outerLine_injective : Function.Injective outerLine := by decide

theorem outerLine_ne_symbols (k : Fin 4) : outerLine k ≠ 1 := by
  fin_cases k <;> decide

/-- `LINE_N` gives different digits different lines (41_decoder R147, R148). -/
theorem lineIndexN_injective (d : RemapData) : Function.Injective (lineIndexN d) := by
  have hσ : ∀ a b, outerLine (d.lineOrderN a) = outerLine (d.lineOrderN b) → a = b :=
    fun a b h => d.lineOrderN.injective (outerLine_injective h)
  have h1 : ∀ a, outerLine (d.lineOrderN a) ≠ 1 := fun a => outerLine_ne_symbols _
  intro p q h
  fin_cases p <;> fin_cases q <;> simp only [lineIndexN] at h <;>
    first
      | rfl
      | exact absurd (hσ _ _ h) (by decide)
      | exact absurd h (h1 _)
      | exact absurd h.symm (h1 _)

/-- `LINE_I` gives different digits different lines (41_decoder R147, R149). -/
theorem lineIndexI_injective (d : RemapData) : Function.Injective (lineIndexI d) := by
  intro p q h
  unfold lineIndexI at h
  split at h
  · exact d.lineOrderI.injective ((Equiv.swap _ _).injective h)
  · exact d.lineOrderI.injective h

/-- Where I1 speaks of some grid, digit 3's inverted line is digit 0's normal one (41_decoder R149). -/
theorem lineIndexI_three {d : RemapData} (h : anyTestsF d = true) : lineIndexI d 3 = lineIndexN d 0 := by
  simp [lineIndexI, h]

theorem anyTestsF_iff (d : RemapData) : anyTestsF d = true ↔ ∃ g, testsF d g = true := by
  constructor
  · intro h
    simp only [anyTestsF, Bool.or_eq_true] at h
    rcases h with (((((h | h) | h) | h) | h) | h) | h <;> exact ⟨_, h⟩
  · rintro ⟨g, h⟩
    fin_cases g <;> simp_all [anyTestsF]

/-- The line of a cell of the block's tables is a used one, at most SG10. -/
theorem remapTable_line (sel : Sel) (g : Fin 7) (p : Fin 5) :
    ∃ k, (remapTable sel g p).line = usedLine k := by
  cases sel <;> exact ⟨_, rfl⟩

theorem segLineBit_getLsbD (n k : Nat) : (segLineBit n).getLsbD k = decide (k < 16 ∧ k = n - 1) := by
  by_cases hk : k < 16
  · by_cases h : k < n - 1
    · have : ¬ k = n - 1 := by omega
      simp [segLineBit, h, hk, this]
    · by_cases h2 : k = n - 1
      · subst h2
        simp [segLineBit, hk]
      · have h3 : k - (n - 1) ≠ 0 := by omega
        simp [segLineBit, h, hk, h2, h3]
  · simp [segLineBit, hk]

theorem cellBit_getLsbD (c : Cell) (m : Byte) (k : Nat) :
    (cellBit c m).getLsbD k = (m.getLsbD c.seg && decide (k < 16 ∧ k = c.line - 1)) := by
  unfold cellBit
  split <;> simp_all [segLineBit_getLsbD]

/-- A bit of a grid word is set exactly when some digit's cell drives it (41_decoder R145). -/
theorem gridWord_getLsbD (tab : RemapTable) (dig : Five Byte) (g : Fin 7) (k : Nat) :
    (gridWord tab dig g).getLsbD k = true ↔
      k < 16 ∧ ∃ p, (dig.get p).getLsbD (tab g p).seg = true ∧ k = (tab g p).line - 1 := by
  simp only [gridWord, List.foldl_cons, List.foldl_nil, BitVec.getLsbD_or, cellBit_getLsbD,
    Bool.or_eq_true, Bool.and_eq_true, decide_eq_true_eq, BitVec.getLsbD_zero, Bool.false_eq_true, false_or]
  constructor
  · rintro ((((h | h) | h) | h) | h) <;> exact ⟨h.2.1, _, h.1, h.2.2⟩
  · rintro ⟨hk, p, hb, hl⟩
    fin_cases p
    · exact .inl (.inl (.inl (.inl ⟨hb, hk, hl⟩)))
    · exact .inl (.inl (.inl (.inr ⟨hb, hk, hl⟩)))
    · exact .inl (.inl (.inr ⟨hb, hk, hl⟩))
    · exact .inl (.inr ⟨hb, hk, hl⟩)
    · exact .inr ⟨hb, hk, hl⟩

@[simp] theorem Seven.get_ofFn {α : Type} (f : Fin 7 → α) (g : Fin 7) : (Seven.ofFn f).get g = f g := by
  fin_cases g <;> rfl

/-- Two tuples of seven are equal when their elements are. -/
theorem Seven.ext_get {α : Type} {v w : Seven α} (h : ∀ g, v.get g = w.get g) : v = w := by
  cases v; cases w
  have h0 := h 0; have h1 := h 1; have h2 := h 2; have h3 := h 3; have h4 := h 4; have h5 := h 5
  have h6 := h 6
  simp only [Seven.get] at h0 h1 h2 h3 h4 h5 h6
  simp [h0, h1, h2, h3, h4, h5, h6]

/-- Two tuples of five are equal when their elements are. -/
theorem Five.ext_get {α : Type} {v w : Five α} (h : ∀ p, v.get p = w.get p) : v = w := by
  cases v; cases w
  have h0 := h 0; have h1 := h 1; have h2 := h 2; have h3 := h 3; have h4 := h 4
  simp only [Five.get] at h0 h1 h2 h3 h4
  simp [h0, h1, h2, h3, h4]

end Sys2Proof.Machine
end

