-- ==== Sys2Proof/Laws/Transport.lean ====
section
/-! SUPPORT. What the transport's bodies, the refresh and the key read do, each as one state: the fields
they change and the events they append. -/

namespace Sys2Proof.Machine

theorem State.beginBody_eq (s : State) :
    s.beginBody = { s with stb := false, trace := s.trace ++ beginEvents } := by
  simp [State.beginBody, State.drive, State.wait, beginEvents]

theorem State.endBody_eq (s : State) :
    s.endBody = { s with stb := true, trace := s.trace ++ endEvents } := by
  simp [State.endBody, State.drive, State.wait, endEvents]

theorem State.writeSlot_eq (s : State) (b : Level) :
    s.writeSlot b = { s with clk := true, dio := .known b, trace := s.trace ++ slotEvents b } := by
  simp [State.writeSlot, State.drive, State.wait, slotEvents]

/-- Slots in a row leave the last bit on the line (40_transport R104). -/
theorem State.writeSlots_append (s : State) (bs : List Level) (b : Level) :
    s.writeSlots (bs ++ [b]) =
      { s with clk := true, dio := .known b, trace := s.trace ++ (bs ++ [b]).flatMap slotEvents } := by
  have h : ∀ (cs : List Level) (t : State),
      (t.writeSlots cs) = { t with
        clk := (t.writeSlots cs).clk, dio := (t.writeSlots cs).dio,
        trace := t.trace ++ cs.flatMap slotEvents } := by
    intro cs
    induction cs with
    | nil => intro t; simp [State.writeSlots]
    | cons c cs ih =>
      intro t
      have := ih (t.writeSlot c)
      simp only [State.writeSlots, List.foldl_cons] at this ⊢
      rw [this, State.writeSlot_eq]
      simp
  have hl : s.writeSlots (bs ++ [b]) = (s.writeSlots bs).writeSlot b := by
    simp [State.writeSlots]
  rw [hl, h bs s, State.writeSlot_eq]
  simp

/-- An n-bit value is written bit 0 first and leaves its top bit on the line (40_transport R104, R108). -/
theorem State.writeValue_eq (s : State) {n : Nat} (v : BitVec (n + 1)) :
    (s.writeSlots (wireBits v)).wait 1 =
      { s with clk := true, dio := .known (v.getLsbD n), trace := s.trace ++ writeEvents v } := by
  have h : wireBits v = (List.range n).map v.getLsbD ++ [v.getLsbD n] := by
    simp [wireBits, List.range_succ]
  rw [h, State.writeSlots_append]
  simp [State.wait, writeEvents, List.range_succ, List.flatMap_map]

theorem State.wr8Body_eq (s : State) (v : Byte) :
    s.wr8Body v =
      { s with clk := true, dio := .known (v.getLsbD 7), trace := s.trace ++ writeEvents v } :=
  s.writeValue_eq (n := 7) v

theorem State.wr16Body_eq (s : State) (v : Word) :
    s.wr16Body v =
      { s with clk := true, dio := .known (v.getLsbD 15), trace := s.trace ++ writeEvents v } :=
  s.writeValue_eq (n := 15) v

theorem readSlot_eq (acc : Byte) (s : State) :
    readSlot acc s =
      (shiftIn acc (s.sampleAt 0),
        { s with
          clk := true
          trace := s.trace ++ readSlotEvents (s.sampleAt 0)
          answers := s.answers.drop 1
          draws := s.draws + 1 }) := by
  rw [State.sampleAt_zero]
  simp [readSlot, State.drive, State.wait, State.sampled, State.sampleLevel, readSlotEvents]

/-- Read slots in a row take the next samples in order (40_transport R112). -/
theorem readSlots_eq (n : Nat) (acc : Byte) (s : State) :
    readSlots (n + 1) acc s =
      ((List.range (n + 1)).foldl (fun a k => shiftIn a (s.sampleAt k)) acc,
        { s with
          clk := true
          trace := s.trace ++ (List.range (n + 1)).flatMap (fun k => readSlotEvents (s.sampleAt k))
          answers := s.answers.drop (n + 1)
          draws := s.draws + (n + 1) }) := by
  induction n generalizing acc s with
  | zero => simp [readSlots, readSlot_eq]
  | succ n ih =>
    have hs : ∀ k, (readSlot acc s).2.sampleAt k = s.sampleAt (k + 1) := fun k => by
      rw [Nat.add_comm k 1]
      exact State.sampleAt_congr (by rw [readSlot_eq]) (by rw [readSlot_eq]) k
    rw [readSlots, ih]
    simp only [hs]
    rw [readSlot_eq, List.range_succ_eq_map (n := n + 1)]
    simp only [List.foldl_cons, List.foldl_map, List.flatMap_cons, List.flatMap_map, List.append_assoc,
      List.drop_drop, Nat.succ_eq_add_one, Prod.mk.injEq, State.mk.injEq, true_and]
    refine ⟨?_, ?_⟩
    · congr 1; omega
    · omega

/-- Shifting eight samples in puts sample i in bit i (40_transport R112). -/
theorem shiftIn_eight (b : Nat → Level) :
    (List.range 8).foldl (fun a k => shiftIn a (b k)) 0x00 = byteOfSamples b := by
  simp only [byteOfSamples, List.range, List.range.loop, List.foldl_cons, List.foldl_nil]
  cases b 0 <;> cases b 1 <;> cases b 2 <;> cases b 3 <;> cases b 4 <;> cases b 5 <;> cases b 6 <;>
    cases b 7 <;> rfl

theorem State.rd8Body_eq (s : State) :
    s.rd8Body =
      (byteOfSamples s.sampleAt,
        { s with
          clk := true
          dio := .unknown
          dir := .out
          trace := s.trace ++ readEvents s.sampleAt
          answers := s.answers.drop 8
          draws := s.draws + 8 }) := by
  have h : ∀ k, (s.setMode .inPu).sampleAt k = s.sampleAt k := fun _ => rfl
  rw [State.rd8Body, readSlots_eq]
  simp only [h]
  rw [shiftIn_eight]
  simp [State.setMode, State.forgetDio, readEvents]

theorem State.transaction_eq (s : State) (send : State → State) :
    s.transaction send = (send s.beginBody).endBody := rfl

/-- A transaction of one command byte. -/
theorem State.command_eq (s : State) (b : Byte) :
    (s.transaction fun t => t.wr8Body b) =
      { s with
        stb := true
        clk := true
        dio := .known (b.getLsbD 7)
        trace := s.trace ++ commandEvents b } := by
  simp [State.transaction, State.beginBody_eq, State.wr8Body_eq, State.endBody_eq, commandEvents]

/-- Words in a row: the last one's top bit stays on the line. -/
theorem State.wr16Each_append (s : State) (ws : List Word) (w : Word) :
    s.wr16Each (ws ++ [w]) =
      { s with
        clk := true
        dio := .known (w.getLsbD 15)
        trace := s.trace ++ (ws ++ [w]).flatMap fun v => writeEvents v } := by
  have h : ∀ (vs : List Word) (t : State),
      (t.wr16Each vs) = { t with
        clk := (t.wr16Each vs).clk, dio := (t.wr16Each vs).dio,
        trace := t.trace ++ vs.flatMap fun v => writeEvents v } := by
    intro vs
    induction vs with
    | nil => intro t; simp [State.wr16Each]
    | cons v vs ih =>
      intro t
      have := ih (t.wr16Body v)
      simp only [State.wr16Each, List.foldl_cons] at this ⊢
      rw [this, State.wr16Body_eq]
      simp
  have hl : s.wr16Each (ws ++ [w]) = (s.wr16Each ws).wr16Body w := by
    simp [State.wr16Each]
  rw [hl, h ws s, State.wr16Body_eq]
  simp

/-- The matrix's seven words (42_sequencer R181). -/
theorem State.wr16Each_seven (s : State) (m : Seven Word) :
    s.wr16Each m.toList =
      { s with
        clk := true
        dio := .known (m.m6.getLsbD 15)
        trace := s.trace ++ m.toList.flatMap fun v => writeEvents v } :=
  s.wr16Each_append [m.m0, m.m1, m.m2, m.m3, m.m4, m.m5] m.m6

/-- The refresh ends with the strobe and clock high and bit 7 of the control byte, a 1, on the line
(42_sequencer R182). -/
theorem State.sendRefresh_eq (s : State) (m : Seven Word) (ctrl : BitVec 4) :
    s.sendRefresh m ctrl =
      { s with
        stb := true
        clk := true
        dio := .known true
        trace := s.trace ++ refreshEvents m (0x80 ||| ctrl.setWidth 8) } := by
  have h7 : (0x80#8 ||| ctrl.setWidth 8).getLsbD 7 = true := by simp
  simp only [State.sendRefresh, State.command_eq]
  simp only [State.transaction_eq, State.beginBody_eq, State.wr8Body_eq, State.wr16Each_seven,
    State.endBody_eq, refreshEvents, displayControlByte, displayModeByte, submode7g11s,
    dataWriteIncByte, addressSetByte, List.append_assoc]
  simp

theorem State.refresh_eq (s : State) :
    s.refresh =
      { s with
        stb := true
        clk := true
        dio := .known true
        trace := s.trace ++
          refreshEvents (remapMatrix (remapTable s.rsel) s.dig) (0x80 ||| s.ctrl.setWidth 8) } := by
  rw [State.refresh, State.sendRefresh_eq]

/-- A state after a read of n samples with the given events. -/
def State.afterRead (s : State) (n : Nat) (evs : List Event) : State :=
  { s with
    clk := true
    dio := .unknown
    dir := .out
    trace := s.trace ++ evs
    answers := s.answers.drop n
    draws := s.draws + n }

/-- An RD8 after n samples takes the next eight (40_transport R112). -/
theorem State.rd8Body_afterRead (s : State) (n : Nat) (evs : List Event) :
    (s.afterRead n evs).rd8Body =
      (byteOfSamples fun k => s.sampleAt (n + k),
        s.afterRead (n + 8) (evs ++ readEvents fun k => s.sampleAt (n + k))) := by
  have h : (s.afterRead n evs).sampleAt = fun k => s.sampleAt (n + k) :=
    funext fun k => State.sampleAt_congr rfl rfl k
  rw [State.rd8Body_eq, h]
  simp [State.afterRead, Nat.add_assoc]

/-- Five RD8s take forty samples, eight for each byte (42_sequencer R190). -/
theorem State.readFiveBytes_eq (s : State) :
    s.readFiveBytes =
      (s.rawKeys,
        s.afterRead 40 ((List.range 5).flatMap fun i => readEvents fun k => s.sampleAt (8 * i + k))) := by
  have e0 : s.rd8Body =
      (byteOfSamples s.sampleAt, s.afterRead 8 (readEvents s.sampleAt)) := s.rd8Body_eq
  simp only [State.readFiveBytes, e0, State.rd8Body_afterRead]
  simp [State.rawKeys, State.keyByteAt, List.range, List.range.loop]

theorem State.keyRead_eq (s : State) :
    s.keyRead =
      { s with
        stb := true
        clk := true
        dio := .unknown
        dir := .out
        trace := s.trace ++ keyReadEvents s.sampleAt
        results := s.results ++ [.keys (keyMask s.rawKeys)]
        answers := s.answers.drop 40
        draws := s.draws + 40 } := by
  have h : ∀ k, ((s.beginBody).wr8Body dataReadByte).sampleAt k = s.sampleAt k := fun k => by
    rw [State.wr8Body_eq, State.beginBody_eq]; rfl
  have hr : ((s.beginBody).wr8Body dataReadByte).rawKeys = s.rawKeys := by
    simp [State.rawKeys, State.keyByteAt, h]
  rw [State.keyRead, State.readFiveBytes_eq]
  simp only [h, hr]
  rw [State.wr8Body_eq, State.beginBody_eq, State.endBody_eq]
  simp [State.afterRead, State.giveResult, keyReadEvents, dataReadByte]

end Sys2Proof.Machine
end

