-- ==== Sys2Proof/Laws/Exec.lean ====
section
/-! SUPPORT. What `exec` and `step` can do, said once: every operation has the shared shape of
`State.perform`, with a check and a body of its own. -/

namespace Sys2Proof.Machine

/-- The checks of an operation, in their order. -/
def checkOf (i : Instr) (s : State) : Option FaultCode :=
  match i with
  | .beginTxn | .clear | .getbuttons => s.checkOutside
  | .endTxn | .wr8 _ | .wr16 _ | .rd8 | .dm6g12s | .dm7g11s | .dataWriteInc | .dataRead
  | .dataWriteFixed | .displayControl _ | .addressSet => s.checkInside
  | .setbright level _ => checkLevel level
  | .setfont _ | .setfilter _ | .remap _ _ | .keydecode _ => none
  | .digit code pos => firstFault [s.checkOutside, checkPos pos, checkCode code]
  | .digits codes pos =>
    firstFault [s.checkOutside, checkPos pos, checkLen pos codes.length, checkCodes codes]
  | .seg _ pos => firstFault [s.checkOutside, checkPos pos]
  | .segs masks pos => firstFault [s.checkOutside, checkPos pos, checkLen pos masks.length]
  | .font _ code => checkCode code

/-- What an operation does once its checks have passed. -/
def bodyOf (i : Instr) : State → State :=
  match i with
  | .beginTxn => fun t => t.beginBody
  | .endTxn => fun t => t.endBody
  | .wr8 v8 => fun t => t.wr8Body v8
  | .wr16 v16 => fun t => t.wr16Body v16
  | .rd8 => fun t => t.rd8Body.2.giveResult (.byte t.rd8Body.1)
  | .setbright level on => fun t => t.setCtrl (controlValue level on)
  | .setfont sel => fun t => t.setFsel sel
  | .setfilter sel => fun t => t.setRsel sel
  | .digit code pos => fun t => (t.setDig pos.toNat (fontLookup t.fsel code)).refresh
  | .digits codes pos => fun t => (t.setDigs pos.toNat (codes.map (fontLookup t.fsel))).refresh
  | .seg mask pos => fun t => (t.setDig pos.toNat mask).refresh
  | .segs masks pos => fun t => (t.setDigs pos.toNat masks).refresh
  | .clear => fun t => (t.setDigs 0 (List.replicate 5 (fontLookup t.fsel blankCode))).refresh
  | .getbuttons => fun t => t.keyRead
  | .font sel code => fun t => t.giveResult (.byte (fontLookup sel code))
  | .remap sel dig => fun t => t.giveResult (.matrix (remapMatrix (remapTable sel) dig))
  | .keydecode raw => fun t => t.giveResult (.keys (keyMask raw))
  | .dm6g12s => fun t => t.wr8Body (displayModeByte submode6g12s)
  | .dm7g11s => fun t => t.wr8Body (displayModeByte submode7g11s)
  | .dataWriteInc => fun t => t.wr8Body dataWriteIncByte
  | .dataRead => fun t => t.wr8Body dataReadByte
  | .dataWriteFixed => fun t => t.wr8Body dataWriteFixedByte
  | .displayControl ctrl => fun t => t.wr8Body (displayControlByte ctrl)
  | .addressSet => fun t => t.wr8Body addressSetByte

/-- Every operation has the shared shape. -/
theorem exec_eq_perform (i : Instr) (s : State) : exec i s = s.perform (checkOf i s) (bodyOf i) := by
  cases i <;>
    simp only [exec, checkOf, bodyOf, execBegin, execEnd, execWr8, execWr16, execRd8, execSetbright,
      execSetfont, execSetfilter, execDigit, execDigits, execSeg, execSegs, execClear, execGetbuttons,
      execFont, execRemap, execKeydecode, execDm6g12s, execDm7g11s, execDataWriteInc, execDataRead,
      execDataWriteFixed, execDisplayControl, execAddressSet, sendCommand]

/-- An operation whose checks pass in a ready state completes. -/
theorem exec_of_check {i : Instr} {s : State} (h : s.Ready) (hc : checkOf i s = none) :
    exec i s = .next (bodyOf i s).advance := by
  rw [exec_eq_perform, hc, State.perform_ready h]

/-- An operation whose check fails in a ready state records the fault. -/
theorem exec_of_fault {i : Instr} {s : State} {c : FaultCode} (h : s.Ready)
    (hc : checkOf i s = some c) : exec i s = .next (s.raiseFault c) := by
  rw [exec_eq_perform, hc, State.perform_fault h]

/-- Everything an operation can do: stay halted, record a fault, or complete. -/
theorem exec_cases {i : Instr} {s t : State} (h : exec i s = .next t) :
    (s.fault.fv = true ∧ t = s) ∨
    (s.Ready ∧ ∃ c, checkOf i s = some c ∧ t = s.raiseFault c) ∨
    (s.Ready ∧ checkOf i s = none ∧ t = (bodyOf i s).advance) :=
  State.perform_cases (by rwa [exec_eq_perform] at h)

/-- The digit buffer an operation leaves. -/
def digAfter (i : Instr) (s : State) : Five Byte :=
  match i with
  | .digit code pos => s.dig.set pos.toNat (fontLookup s.fsel code)
  | .digits codes pos => writeRun s.dig pos.toNat (codes.map (fontLookup s.fsel))
  | .seg mask pos => s.dig.set pos.toNat mask
  | .segs masks pos => writeRun s.dig pos.toNat masks
  | .clear => writeRun s.dig 0 (List.replicate 5 (fontLookup s.fsel blankCode))
  | .beginTxn | .endTxn | .wr8 _ | .wr16 _ | .rd8 | .setbright _ _ | .setfont _ | .setfilter _
  | .getbuttons | .font _ _ | .remap _ _ | .keydecode _ | .dm6g12s | .dm7g11s | .dataWriteInc
  | .dataRead | .dataWriteFixed | .displayControl _ | .addressSet => s.dig

/-- The events an operation appends when it completes. -/
def eventsOf (i : Instr) (s : State) : List Event :=
  match i with
  | .beginTxn => beginEvents
  | .endTxn => endEvents
  | .wr8 v8 => writeEvents v8
  | .wr16 v16 => writeEvents v16
  | .rd8 => readEvents s.sampleAt
  | .getbuttons => keyReadEvents s.sampleAt
  | .digit _ _ | .digits _ _ | .seg _ _ | .segs _ _ | .clear =>
    refreshEvents (remapMatrix (remapTable s.rsel) (digAfter i s)) (0x80 ||| s.ctrl.setWidth 8)
  | .setbright _ _ | .setfont _ | .setfilter _ | .font _ _ | .remap _ _ | .keydecode _ => []
  | .dm6g12s => writeEvents (displayModeByte submode6g12s)
  | .dm7g11s => writeEvents (displayModeByte submode7g11s)
  | .dataWriteInc => writeEvents dataWriteIncByte
  | .dataRead => writeEvents dataReadByte
  | .dataWriteFixed => writeEvents dataWriteFixedByte
  | .displayControl ctrl => writeEvents (displayControlByte ctrl)
  | .addressSet => writeEvents addressSetByte

/-- An operation appends its events and no others. -/
theorem bodyOf_trace (i : Instr) (s : State) : (bodyOf i s).trace = s.trace ++ eventsOf i s := by
  cases i <;>
    simp [bodyOf, eventsOf, digAfter, State.beginBody_eq, State.endBody_eq, State.wr8Body_eq,
      State.wr16Body_eq, State.rd8Body_eq, State.refresh_eq, State.keyRead_eq]

/-- An operation leaves the digit buffer of `digAfter`. -/
theorem bodyOf_dig (i : Instr) (s : State) : (bodyOf i s).dig = digAfter i s := by
  cases i <;>
    simp [bodyOf, digAfter, State.beginBody_eq, State.endBody_eq, State.wr8Body_eq,
      State.wr16Body_eq, State.rd8Body_eq, State.refresh_eq, State.keyRead_eq]

/-- No operation's body touches `FAULT`, `pc`, the program or `BIT_DELAY`. -/
theorem bodyOf_frame (i : Instr) (s : State) :
    (bodyOf i s).fault = s.fault ∧ (bodyOf i s).pc = s.pc ∧ (bodyOf i s).program = s.program
      ∧ (bodyOf i s).bitDelay = s.bitDelay := by
  cases i <;>
    simp [bodyOf, State.beginBody_eq, State.endBody_eq, State.wr8Body_eq, State.wr16Body_eq,
      State.rd8Body_eq, State.refresh_eq, State.keyRead_eq]

/-- Everything a step that answers a next state can do: nothing, or run the operation at `pc`. -/
theorem step_cases {s t : State} (h : step s = .next t) :
    t = s ∨ ∃ i, s.Ready ∧ s.pc < s.program.length ∧ exec i s = .next t := by
  unfold step State.presented at h
  by_cases hf : s.fault.fv = true
  · simp only [hf, if_true, Host.Outcome.next.injEq] at h
    exact .inl h.symm
  · simp only [hf] at h
    cases hr : s.program[s.pc]? with
    | none =>
      by_cases hp : s.pc = s.program.length <;> simp [hr, hp] at h
      exact .inl h.symm
    | some r =>
      cases hd : decodeRequest r with
      | error e => simp [hr, hd] at h
      | ok i =>
        simp only [hr, hd, Bool.false_eq_true, if_false] at h
        exact .inr ⟨i, by simpa [State.Ready] using hf, (List.getElem?_eq_some_iff.1 hr).1, h⟩

end Sys2Proof.Machine
end

