-- ==== Sys2Proof/Laws/Keys.lean ====
section
/-! SUPPORT. The bits of a decoded key mask. -/

namespace Sys2Proof.Machine

/-- A key line's part of the result is its one bit, where the raw byte reports it (42_sequencer R191). -/
theorem keyLineBit_getLsbD (l : KeyLine) (i : Fin 5) (raw : Byte) (n : Nat) :
    (keyLineBit l i raw).getLsbD n = (l.pressed raw && decide (n = l.resultBit i)) := by
  have shifted : ∀ (l : KeyLine) (i : Fin 5) (n : Fin 32),
      (1#32 <<< l.resultBit i).getLsbD n = decide (n.val = l.resultBit i) := by
    intro l
    cases l <;> decide
  have bound : l.resultBit i < 32 := by
    cases l <;> simp only [KeyLine.resultBit] <;> omega
  by_cases hn : n < 32
  · have := shifted l i ⟨n, hn⟩
    unfold keyLineBit
    split <;> simp_all
  · have hne : n ≠ l.resultBit i := by omega
    rw [BitVec.getLsbD_of_ge _ _ (by omega)]
    simp [hne]

/-- A column's part of the result is its two lines' bits. -/
theorem keyBits_getLsbD (i : Fin 5) (raw : Byte) (n : Nat) :
    (keyBits i raw).getLsbD n =
      (KeyLine.K1.pressed raw && decide (n = 2 * i.val) ||
        KeyLine.K2.pressed raw && decide (n = 16 + 2 * i.val)) := by
  rw [keyBits, BitVec.getLsbD_or, keyLineBit_getLsbD, keyLineBit_getLsbD]
  rfl

end Sys2Proof.Machine
end

