-- ==== Sys2Proof/Laws/PerInstr.lean ====
section
/-! SUPPORT. The family made per instruction: an operation's request agrees with its row of
spec/opcode_table.json. -/

namespace Sys2Proof.Laws.TableRow

/-- The request of an operation goes to the interface of its row, and its first byte is the row's
`match` under the row's `mask` (30_encoding R70, R73, R80). -/
def Statement (i : Instr) : Prop :=
  (encode i).port = (Machine.tableRow i).1 ∧
    ((encode i).bytes.head?.map fun b => b &&& (Machine.tableRow i).2.2) = some (Machine.tableRow i).2.1

theorem beginTxn : Statement .beginTxn := by
  simp [Statement, encode, Machine.tableRow]

theorem endTxn : Statement .endTxn := by
  simp [Statement, encode, Machine.tableRow]

theorem wr8 (v : Byte) : Statement (.wr8 v) := by
  simp [Statement, encode, Machine.tableRow]

theorem wr16 (v : Word) : Statement (.wr16 v) := by
  simp [Statement, encode, Machine.tableRow]

theorem rd8 : Statement .rd8 := by
  simp [Statement, encode, Machine.tableRow]

theorem setbright (level : Byte) (on : Bool) : Statement (.setbright level on) := by
  simp [Statement, encode, Machine.tableRow]

theorem setfont (sel : Sel) : Statement (.setfont sel) := by
  simp [Statement, encode, Machine.tableRow]

theorem setfilter (sel : Sel) : Statement (.setfilter sel) := by
  simp [Statement, encode, Machine.tableRow]

theorem digit (code : Byte) (pos : Byte) : Statement (.digit code pos) := by
  simp [Statement, encode, Machine.tableRow]

theorem digits (codes : List Byte) (pos : Byte) : Statement (.digits codes pos) := by
  simp [Statement, encode, Machine.tableRow]

theorem seg (mask : Byte) (pos : Byte) : Statement (.seg mask pos) := by
  simp [Statement, encode, Machine.tableRow]

theorem segs (masks : List Byte) (pos : Byte) : Statement (.segs masks pos) := by
  simp [Statement, encode, Machine.tableRow]

theorem clear : Statement .clear := by
  simp [Statement, encode, Machine.tableRow]

theorem getbuttons : Statement .getbuttons := by
  simp [Statement, encode, Machine.tableRow]

theorem font (sel : Sel) (code : Byte) : Statement (.font sel code) := by
  simp [Statement, encode, Machine.tableRow]

theorem remap (sel : Sel) (dig : Five Byte) : Statement (.remap sel dig) := by
  simp [Statement, encode, Machine.tableRow]

theorem keydecode (raw : Five Byte) : Statement (.keydecode raw) := by
  simp [Statement, encode, Machine.tableRow]

theorem dm6g12s : Statement .dm6g12s := by
  simp [Statement, encode, Machine.tableRow]

theorem dm7g11s : Statement .dm7g11s := by
  simp [Statement, encode, Machine.tableRow]

theorem dataWriteInc : Statement .dataWriteInc := by
  simp [Statement, encode, Machine.tableRow]

theorem dataRead : Statement .dataRead := by
  simp [Statement, encode, Machine.tableRow]

theorem dataWriteFixed : Statement .dataWriteFixed := by
  simp [Statement, encode, Machine.tableRow]

theorem displayControl (ctrl : BitVec 4) : Statement (.displayControl ctrl) := by
  refine ⟨rfl, ?_⟩
  simp only [encode, Machine.tableRow, List.head?_cons, Option.map_some, Option.some.injEq]
  revert ctrl
  decide

theorem addressSet : Statement .addressSet := by
  simp [Statement, encode, Machine.tableRow]

end Sys2Proof.Laws.TableRow
end

