-- ==== Sys2Proof/Tests/Slice0.lean ====
section
/-! SUPPORT. Tests: decode words written out from 30_encoding, one-step vectors of 95_test_vectors, and
for every obligation with hypotheses a state and operands that meet them, at the edges of their ranges. -/

namespace Sys2Proof.Tests

open Sys2Proof Sys2Proof.Machine

/-! ### Helpers -/

/-- The reset machine with a transaction open (as after `begin`, vector T-1). -/
def opened : State := { State.reset with stb := false }

/-- The reset machine with the given samples to come, a transaction open. -/
def openedWith (answers : List Level) : State := { opened with answers := answers }

/-- The reset machine halted on F_POS. -/
def halted : State := { State.reset with fault := ⟨true, 1⟩ }

/-- The reset machine with a program presented. -/
def loaded (program : List Request) : State := State.reset.present program

/-- A check on the next state that a step answers; a fault or a refusal fails it. -/
def next (o : Host.Outcome State Fault Refusal) (check : State → Bool) : Bool :=
  match o with
  | .next t => check t
  | .fault _ => false
  | .refused _ => false

/-- The step records this code and leaves everything else of reset. -/
def faults (o : Host.Outcome State Fault Refusal) (fcode : BitVec 3) : Bool :=
  next o fun t => t.fault == ⟨true, fcode⟩ && t.trace == [] && t.pc == 0 && t.dig == Five.all 0

/-! ### Well-formedness: an ill-formed term for each check (30_encoding R71: the length is one byte) -/

theorem test_wf_digits_too_long : Instr.wellFormed (.digits (List.replicate 256 0) 0) = false := by
  decide +kernel

theorem test_wf_digits_longest : Instr.wellFormed (.digits (List.replicate 255 0) 0) = true := by
  decide +kernel

theorem test_wf_segs_too_long : Instr.wellFormed (.segs (List.replicate 256 0) 0) = false := by
  decide +kernel

theorem test_wf_segs_longest : Instr.wellFormed (.segs (List.replicate 255 0) 0) = true := by
  decide +kernel

/-! ### Decoding: words from 30_encoding R71, R73 and R80 to R84 -/

theorem test_decode_transport :
    decodeRequest ⟨.hostOp, [0x01]⟩ = .ok .beginTxn
      ∧ decodeRequest ⟨.hostOp, [0x02]⟩ = .ok .endTxn
      ∧ decodeRequest ⟨.hostOp, [0x03, 0x42]⟩ = .ok (.wr8 0x42)
      ∧ decodeRequest ⟨.hostOp, [0x04, 0x34, 0x12]⟩ = .ok (.wr16 0x1234)
      ∧ decodeRequest ⟨.hostOp, [0x05]⟩ = .ok .rd8 := by decide

theorem test_decode_configuration :
    decodeRequest ⟨.hostOp, [0x08, 0x03, 0x01]⟩ = .ok (.setbright 3 true)
      ∧ decodeRequest ⟨.hostOp, [0x08, 0xFF, 0x00]⟩ = .ok (.setbright 255 false)
      ∧ decodeRequest ⟨.hostOp, [0x09, 0x01]⟩ = .ok (.setfont .inverted)
      ∧ decodeRequest ⟨.hostOp, [0x0A, 0x00]⟩ = .ok (.setfilter .normal) := by decide

theorem test_decode_display :
    decodeRequest ⟨.hostOp, [0x10, 0x08, 0x02]⟩ = .ok (.digit 8 2)
      ∧ decodeRequest ⟨.hostOp, [0x11, 0x02, 0x01, 0x02, 0x04]⟩ = .ok (.digits [1, 2] 4)
      ∧ decodeRequest ⟨.hostOp, [0x11, 0x00, 0x05]⟩ = .ok (.digits [] 5)
      ∧ decodeRequest ⟨.hostOp, [0x12, 0x20, 0x00]⟩ = .ok (.seg 0x20 0)
      ∧ decodeRequest ⟨.hostOp, [0x13, 0x05, 0xFF, 0xFF, 0xFF, 0xFF, 0xFF, 0x00]⟩
        = .ok (.segs [0xFF, 0xFF, 0xFF, 0xFF, 0xFF] 0)
      ∧ decodeRequest ⟨.hostOp, [0x14]⟩ = .ok .clear := by decide

theorem test_decode_keys_and_queries :
    decodeRequest ⟨.hostOp, [0x18]⟩ = .ok .getbuttons
      ∧ decodeRequest ⟨.hostOp, [0x1C, 0x01, 0x10]⟩ = .ok (.font .inverted 16)
      ∧ decodeRequest ⟨.hostOp, [0x1D, 0x00, 0x01, 0x02, 0x03, 0x04, 0x7F]⟩
        = .ok (.remap .normal ⟨1, 2, 3, 4, 0x7F⟩)
      ∧ decodeRequest ⟨.hostOp, [0x1E, 0x01, 0x08, 0x09, 0x00, 0x02]⟩
        = .ok (.keydecode ⟨0x01, 0x08, 0x09, 0x00, 0x02⟩) := by decide

theorem test_decode_wire_commands :
    decodeRequest ⟨.wireCmd, [0x02]⟩ = .ok .dm6g12s
      ∧ decodeRequest ⟨.wireCmd, [0x03]⟩ = .ok .dm7g11s
      ∧ decodeRequest ⟨.wireCmd, [0x40]⟩ = .ok .dataWriteInc
      ∧ decodeRequest ⟨.wireCmd, [0x42]⟩ = .ok .dataRead
      ∧ decodeRequest ⟨.wireCmd, [0x44]⟩ = .ok .dataWriteFixed
      ∧ decodeRequest ⟨.wireCmd, [0x80]⟩ = .ok (.displayControl 0x0)
      ∧ decodeRequest ⟨.wireCmd, [0x8F]⟩ = .ok (.displayControl 0xF)
      ∧ decodeRequest ⟨.wireCmd, [0xC0]⟩ = .ok .addressSet := by decide

/-- 30_encoding R74: reserved OPs, a REMAP with four masks, a `sel` of 2; 91 N9: other wire bytes. -/
theorem test_decode_refuses :
    decodeRequest ⟨.hostOp, [0x1F]⟩ = .error (.reservedOp 0x1F)
      ∧ decodeRequest ⟨.hostOp, [0x06]⟩ = .error (.reservedOp 0x06)
      ∧ decodeRequest ⟨.hostOp, [0x1D, 0x00, 1, 2, 3, 4]⟩ = .error .wrongShape
      ∧ decodeRequest ⟨.hostOp, [0x09, 0x02]⟩ = .error (.badSel 0x02)
      ∧ decodeRequest ⟨.hostOp, [0x08, 0x03, 0x02]⟩ = .error (.badOn 0x02)
      ∧ decodeRequest ⟨.hostOp, [0x21]⟩ = .error (.notAnOpByte 0x21)
      ∧ decodeRequest ⟨.hostOp, [0x14, 0x00]⟩ = .error .wrongShape
      ∧ decodeRequest ⟨.hostOp, []⟩ = .error .empty
      ∧ decodeRequest ⟨.wireCmd, [0x90]⟩ = .error (.unknownWireByte 0x90)
      ∧ decodeRequest ⟨.wireCmd, [0xC1]⟩ = .error (.unknownWireByte 0xC1) := by decide

/-- A number of the opcode table: operand bytes above it are zeros; 0x02 and 0x03 are host operations
there (log 2). -/
theorem test_decode_table_words :
    decodeTableWord 8 0x10 = some (.digit 0 0)
      ∧ decodeTableWord 8 0x11 = some (.digits [] 0)
      ∧ decodeTableWord 8 0x1D = some (.remap .normal (Five.all 0))
      ∧ decodeTableWord 8 0x03 = some (.wr8 0)
      ∧ decodeTableWord 8 0x44 = some .dataWriteFixed
      ∧ decodeTableWord 8 0x8B = some (.displayControl 0xB)
      ∧ decodeTableWord 8 0x1F = none := by decide +kernel

/-- Log 15: the longest list that a request can present assembles, one element more is refused. -/
theorem test_assembler_list_length :
    let line (n : Nat) : List AsmToken := [.word .segs, .openBrace, .num 7]
      ++ (List.replicate n [.comma, .num 7]).flatten ++ [.closeBrace, .comma, .num 0]
    (assemble [line 254]).isSome = true ∧ assemble [line 255] = none := by decide +kernel

/-- 30_encoding R90 and R91, on tokens. -/
theorem test_assembler :
    assembleLine [.word .digits, .openBrace, .num 1, .comma, .num 2, .closeBrace, .comma, .num 4]
        = some [.digits [1, 2] 4]
      ∧ assembleLine [.word .segs, .openBrace, .closeBrace, .comma, .num 0] = some [.segs [] 0]
      ∧ assembleLine [.word .setbright, .num 3, .comma, .word .on] = some [.setbright 3 true]
      ∧ assembleLine [.word .setbright, .num 256, .comma, .word .on] = none
      ∧ assemble [[.word .cmd, .num 0x40]]
        = some [⟨.hostOp, [0x01]⟩, ⟨.hostOp, [0x03, 0x40]⟩, ⟨.hostOp, [0x02]⟩] := by decide

/-- Program P3's text without its list, and an unknown word. -/
theorem test_assembler_text :
    assembleText "setbright 7, off ; level kept\n\nblank 0x0A\n  wr16 0x0386".toList
        = some [⟨.hostOp, [0x08, 0x07, 0x00]⟩, ⟨.hostOp, [0x10, 0x10, 0x0A]⟩, ⟨.hostOp, [0x04, 0x86, 0x03]⟩]
      ∧ asmTokens [] ("digits ".toList ++ [Char.ofNat 123, '1', ',', '2', Char.ofNat 125] ++ ",3".toList)
        = some [.word .digits, .openBrace, .num 1, .comma, .num 2, .closeBrace, .comma, .num 3]
      ∧ assembleText "BEGIN".toList = none := by decide +kernel

/-! ### One step: vectors of 95_test_vectors -/

/-- T-1. -/
theorem test_begin :
    next (exec .beginTxn .reset) (fun t =>
      t.trace == [.drive .stb false, .wait 1] && t.stb == false && t.pc == 1) = true := by decide

/-- T-3. -/
theorem test_begin_inside : faults (exec .beginTxn opened) 5 = true := by decide

/-- T-2. -/
theorem test_end_outside : faults (exec .endTxn .reset) 5 = true := by decide

/-- T-20. -/
theorem test_end :
    next (exec .endTxn opened) (fun t => t.trace == [.drive .stb true, .wait 1] && t.stb) = true := by
  decide

/-- T-7: 0x8B sends 1,1,0,1,0,0,0,1. -/
theorem test_wr8 :
    next (exec (.wr8 0x8B) opened) (fun t =>
      t.trace == [true, true, false, true, false, false, false, true].flatMap slotEvents ++ [.wait 1]
        && t.dio == .known true && t.clk && t.trace.length == 41) = true := by decide

/-- P4. -/
theorem test_wr8_outside : faults (exec (.wr8 0x40) .reset) 5 = true := by decide

/-- T-10c: 0x1234 sends 0,0,1,0,1,1,0,0, 0,1,0,0,1,0,0,0. -/
theorem test_wr16 :
    next (exec (.wr16 0x1234) opened) (fun t =>
      dataLevels t.trace == [false, false, true, false, true, true, false, false,
          false, true, false, false, true, false, false, false]
        && t.dio == .known false && t.trace.length == 81) = true := by decide

/-- T-18. -/
theorem test_wr16_outside : faults (exec (.wr16 0x1234) .reset) 5 = true := by decide

/-- T-16: samples 1,0,1,1,0,0,0,0 give 0x0D. -/
theorem test_rd8 :
    next (exec .rd8 (openedWith [true, false, true, true, false, false, false, false])) (fun t =>
      t.results == [.byte 0x0D] && t.trace.length == 42 && t.dio == .unknown && t.dir == .out
        && t.answers == []) = true := by decide

/-- T-14: the last sample lands in bit 7. -/
theorem test_rd8_last_sample :
    next (exec .rd8 (openedWith [false, false, false, false, false, false, false, true])) (fun t =>
      t.results == [.byte 0x80] && t.trace.head? == some (.mode .inPu)
        && t.trace.getLast? == some (.mode .out)) = true := by decide

/-- S-5. -/
theorem test_setbright :
    next (exec (.setbright 3 true) .reset) (fun t => t.ctrl == 0xB && t.trace == []) = true := by decide

/-- S-6. -/
theorem test_setbright_level : faults (exec (.setbright 8 true) .reset) 4 = true := by decide

/-- S-8. -/
theorem test_setfont : next (exec (.setfont .inverted) .reset) (fun t => t.fsel == .inverted) = true := by
  decide

/-- S-10. -/
theorem test_setfilter :
    next (exec (.setfilter .inverted) .reset) (fun t =>
      t.rsel == .inverted && t.fsel == .normal && t.trace == []) = true := by decide

/-- S-11: code 0 is 0x3F. -/
theorem test_digit :
    next (exec (.digit 0 0) .reset) (fun t =>
      t.dig == ⟨0x3F, 0, 0, 0, 0⟩ && t.stb && t.pc == 1) = true := by
  decide +kernel

/-- S-14: the position is checked first. -/
theorem test_digit_pos_first : faults (exec (.digit 21 5) .reset) 1 = true := by decide

/-- S-24, with the codes whose glyphs the spec gives. -/
theorem test_digits :
    next (exec (.digits [0, 16] 3) { State.reset with dig := ⟨1, 2, 3, 4, 5⟩ }) (fun t =>
      t.dig == ⟨1, 2, 3, 0x3F, 0x00⟩) = true := by decide +kernel

/-- S-22: F_LEN, not F_CODE. -/
theorem test_digits_len : faults (exec (.digits [21, 0] 4) .reset) 2 = true := by decide

/-- S-26. -/
theorem test_seg :
    next (exec (.seg 0x40 2) .reset) (fun t => t.dig == ⟨0, 0, 0x40, 0, 0⟩ && t.pc == 1) = true := by
  decide +kernel

/-- S-25: bit 7 is stored. -/
theorem test_seg_reserved_bit :
    next (exec (.seg 0x80 0) .reset) (fun t => t.dig == ⟨0x80, 0, 0, 0, 0⟩) = true := by decide +kernel

/-- S-27: the whole buffer. -/
theorem test_segs :
    next (exec (.segs [0xFF, 0xFE, 0xFD, 0xFC, 0xFB] 0) .reset) (fun t =>
      t.dig == ⟨0xFF, 0xFE, 0xFD, 0xFC, 0xFB⟩) = true := by decide +kernel

/-- S-28. -/
theorem test_segs_len : faults (exec (.segs [1, 2, 3] 3) .reset) 2 = true := by decide

/-- S-20. -/
theorem test_clear :
    next (exec .clear { State.reset with dig := Five.all 7 }) (fun t => t.dig == Five.all 0) = true := by
  decide +kernel

/-- P1: a refresh of seven zero words with `CTRL` = 0xB sends 0x40, 0xC0, the words, 0x03, 0x8B. -/
theorem test_refresh :
    dataLevels (State.reset.sendRefresh (Seven.ofFn fun _ => 0) 0xB).trace =
      [false, false, false, false, false, false, true, false,
        false, false, false, false, false, false, true, true]
      ++ List.replicate 112 false
      ++ [true, true, false, false, false, false, false, false,
        true, true, false, true, false, false, false, true] := by
  rw [State.sendRefresh_eq]
  decide

/-- S-15's rule for CLEAR. -/
theorem test_clear_inside : faults (exec .clear opened) 5 = true := by decide

/-- P2: the samples of 0x01, 0x08, 0x09, 0x00, 0x02 give 0x01000015. -/
theorem test_getbuttons :
    next (exec .getbuttons { State.reset with
        answers := [true, false, false, false, false, false, false, false,
          false, false, false, true, false, false, false, false,
          true, false, false, true, false, false, false, false,
          false, false, false, false, false, false, false, false,
          false, true, false, false, false, false, false, false] }) (fun t =>
      t.results == [.keys 0x01000015] && t.trace.length == 255 && bitDelays t.trace == 99
        && t.dio == .unknown && t.stb) = true := by decide +kernel

/-- S-40. -/
theorem test_getbuttons_inside : faults (exec .getbuttons opened) 5 = true := by decide

/-- D-1 and D-2. -/
theorem test_font :
    next (exec (.font .normal 0) .reset) (fun t => t.results == [.byte 0x3F]) = true
      ∧ next (exec (.font .inverted 16) .reset) (fun t => t.results == [.byte 0x00]) = true := by decide

/-- D-4. -/
theorem test_font_code : faults (exec (.font .normal 21) .reset) 3 = true := by decide

/-- REMAP takes its own `sel`, whatever `RSEL` is, and writes nothing but its result. -/
theorem test_remap :
    next (exec (.remap .normal ⟨0, 0, 0, 0, 0x7F⟩) { State.reset with rsel := .inverted }) (fun t =>
      t.pc == 1 && t.rsel == .inverted && t.results.length == 1 && t.trace == []) = true := by
  decide

/-- A normal table of the kind 41_decoder R147 and R148 allow: grid g tests segment g at every digit. -/
def someTableN : RemapTable := fun g p =>
  ⟨g, match p with
    | 0 => 2
    | 1 => 8
    | 2 => 9
    | 3 => 10
    | 4 => 3⟩

/-- An inverted table that goes with it under R149: at grid 5, digit 3 tests C on digit 0's line. -/
def someTableI : RemapTable := fun g p =>
  ⟨if g = 5 ∧ p = 3 then 2 else g, match p with
    | 0 => 10
    | 1 => 8
    | 2 => 9
    | 3 => 2
    | 4 => 3⟩

/-- 41_decoder R145 by hand for that table: segment F of digit 0 is on SG2 at grid 5; segment A of digits
1 and 4 on SG8 and SG3 at grid 0; bit 7 of digit 4 lights nothing. -/
theorem test_remap_matrix :
    remapMatrix someTableN ⟨0x20, 0x01, 0, 0, 0x81⟩ = ⟨0x0084, 0, 0, 0, 0, 0x0002, 0⟩ := by decide

/-- S-30. -/
theorem test_keydecode :
    next (exec (.keydecode ⟨0x01, 0x08, 0x09, 0x00, 0x02⟩) .reset) (fun t =>
      t.results == [.keys 0x01000015]) = true := by decide

/-- S-38: bit 2 and bit 22. -/
theorem test_keydecode_columns :
    next (exec (.keydecode ⟨0, 0x01, 0, 0x10, 0⟩) .reset) (fun t =>
      t.results == [.keys 0x00400004]) = true := by decide

/-- T-21's byte 0x03, as the wire command: 1,1,0,0,0,0,0,0. -/
theorem test_dm7g11s :
    next (exec .dm7g11s opened) (fun t =>
      dataLevels t.trace == [true, true, false, false, false, false, false, false]) = true := by decide

/-- 30_encoding R81: 0x02 sends 0,1,0,0,0,0,0,0. -/
theorem test_dm6g12s :
    next (exec .dm6g12s opened) (fun t =>
      dataLevels t.trace == [false, true, false, false, false, false, false, false]) = true := by decide

/-- T-6: 0x40 sends 0,0,0,0,0,0,1,0. -/
theorem test_dataWriteInc :
    next (exec .dataWriteInc opened) (fun t =>
      dataLevels t.trace == [false, false, false, false, false, false, true, false]) = true := by decide

/-- 30_encoding R82: 0x42 sends 0,1,0,0,0,0,1,0. -/
theorem test_dataRead :
    next (exec .dataRead opened) (fun t =>
      dataLevels t.trace == [false, true, false, false, false, false, true, false]) = true := by decide

/-- 30_encoding R82: 0x44 sends 0,0,1,0,0,0,1,0. -/
theorem test_dataWriteFixed :
    next (exec .dataWriteFixed opened) (fun t =>
      dataLevels t.trace == [false, false, true, false, false, false, true, false]) = true := by decide

/-- 30_encoding R83: CTRL 0xB is sent as 0x8B. -/
theorem test_displayControl :
    next (exec (.displayControl 0xB) opened) (fun t =>
      dataLevels t.trace == [true, true, false, true, false, false, false, true]) = true := by decide

/-- P1: 0xC0 sends 0,0,0,0,0,0,1,1. -/
theorem test_addressSet :
    next (exec .addressSet opened) (fun t =>
      dataLevels t.trace == [false, false, false, false, false, false, true, true]) = true := by decide

/-- X-1: while halted an operation is not started. -/
theorem test_halted : exec (.setbright 3 true) halted = .next halted := rfl

/-- X-3: reset is the way out. -/
theorem test_reset_clears_fault : (halted.applyReset 5).fault = ⟨false, 0⟩ := by decide

/-- A step takes the request at `pc` (10_state R36). -/
theorem test_step :
    next (step (loaded [⟨.hostOp, [0x01]⟩])) (fun t => t.stb == false && t.pc == 1) = true := by decide

/-- Bytes that spell no operation are refused by name (30_encoding R74). -/
theorem test_step_refuses : step (loaded [⟨.hostOp, [0x00]⟩]) = .refused (.undecodable (.reservedOp 0)) :=
  rfl

/-- A table word runs as the first operation after reset. -/
theorem test_fetch_word :
    next (step (State.reset.withFetchWord 8 0x01)) (fun t => t.stb == false && t.pc == 1) = true := by
  decide +kernel

/-! ### Witnesses: hypotheses of the obligations met, clause by clause -/

theorem ready_reset : State.reset.Ready := rfl

theorem ready_opened : opened.Ready := rfl

theorem witness_StepRunsDecodedOperation :
    (loaded [⟨.hostOp, [0x14]⟩]).program[(loaded [⟨.hostOp, [0x14]⟩]).pc]? = some ⟨.hostOp, [0x14]⟩
      ∧ decodeRequest ⟨.hostOp, [0x14]⟩ = .ok .clear := by decide

theorem witness_HaltedBlockTakesNoOperation : halted.fault.fv = true := rfl

theorem witness_StepWithoutOperation :
    (State.reset.Ready ∧ State.reset.pc = State.reset.program.length)
      ∧ ((loaded [⟨.hostOp, [0x1F]⟩]).Ready ∧ decodeRequest ⟨.hostOp, [0x1F]⟩ = .error (.reservedOp 0x1F)
        ∧ (loaded [⟨.hostOp, [0x1F]⟩]).program[(loaded [⟨.hostOp, [0x1F]⟩]).pc]? = some ⟨.hostOp, [0x1F]⟩)
      ∧ { State.reset with pc := 1 }.Ready
      ∧ { State.reset with pc := 1 }.pc > { State.reset with pc := 1 }.program.length :=
  ⟨⟨rfl, rfl⟩, ⟨rfl, by decide, rfl⟩, rfl, by decide⟩

/-- Both outcomes: an operation that completes and one that faults. -/
theorem witness_PcCountsCompletedOperations :
    State.reset.Ready
      ∧ next (exec .beginTxn .reset) (fun t => !t.fault.fv && t.pc == 1) = true
      ∧ next (exec .endTxn .reset) (fun t => t.fault.fv && t.pc == 0) = true :=
  ⟨rfl, by decide, by decide⟩

theorem witness_EncodeThenDecode :
    (Instr.segs (List.replicate 255 0xFF) 4).wellFormed = true
      ∧ (Instr.wr16 0xFFFF).wellFormed = true ∧ (Instr.displayControl 0xF).wellFormed = true := by decide +kernel

theorem witness_DecodeThenEncode :
    decodeRequest ⟨.hostOp, [0x11, 0x01, 0x07, 0x04]⟩ = .ok (.digits [7] 4)
      ∧ decodeRequest ⟨.wireCmd, [0x8F]⟩ = .ok (.displayControl 0xF) := by decide

/-- Values next to the legal ones for `sel` and `on`, lists of four and six bytes, and an encoding cut after
its first and before its last byte. -/
theorem witness_WrongShapesAreRefused :
    ((0x1D : Byte) ∈ ([0x09, 0x0A, 0x1C, 0x1D] : List Byte) ∧ (2 : Byte) ≠ 0 ∧ (2 : Byte) ≠ 1)
      ∧ ([1, 2, 3, 4] : List Byte).length ≠ 5 ∧ ([1, 2, 3, 4, 5, 6] : List Byte).length ≠ 5
      ∧ (Instr.digits [1, 2] 4).wellFormed = true
      ∧ 0 < 1 ∧ 1 < (encode (.digits [1, 2] 4)).bytes.length
      ∧ 0 < 4 ∧ 4 < (encode (.digits [1, 2] 4)).bytes.length := by decide

theorem witness_StepKeepsIdle :
    (loaded [⟨.hostOp, [0x01]⟩]).Idle
      ∧ next (step (loaded [⟨.hostOp, [0x01]⟩])) (fun t => t.pc == 1) = true :=
  ⟨⟨rfl, rfl, .inl ⟨rfl, rfl⟩, by decide⟩, by decide⟩

theorem witness_StepKeepsLinesMatchTrace :
    (loaded [⟨.hostOp, [0x01]⟩]).LinesMatchTrace
      ∧ next (step (loaded [⟨.hostOp, [0x01]⟩])) (fun t => t.trace.length == 2) = true :=
  ⟨rfl, by decide⟩

/-- One state for each clause. -/
theorem witness_FaultEntryIsPrecise :
    (State.reset.Ready ∧ next (exec .endTxn .reset) (fun t => t.fault.fv) = true)
      ∧ next (exec .beginTxn .reset) (fun t => !t.fault.fv) = true
      ∧ (halted.fault.fv = true ∧ step halted = .next halted) :=
  ⟨⟨rfl, rfl⟩, by decide, rfl, rfl⟩

/-- An operation that is none of the writers, and answers a next state. -/
theorem witness_RegistersHaveTheirOnlyWriters :
    next (exec .beginTxn .reset) (fun _ => true) = true
      ∧ (∀ level on, Instr.beginTxn ≠ .setbright level on) ∧ (∀ sel, Instr.beginTxn ≠ .setfont sel)
      ∧ (∀ sel, Instr.beginTxn ≠ .setfilter sel) ∧ isDisplay .beginTxn = false
      ∧ clocksBits .beginTxn = false ∧ Instr.beginTxn ≠ .rd8 ∧ Instr.beginTxn ≠ .getbuttons
      ∧ next (exec (.wr8 0) opened) (fun _ => true) = true ∧ movesStrobe (.wr8 0) = false :=
  ⟨by decide, fun _ _ => Instr.noConfusion, fun _ => Instr.noConfusion, fun _ => Instr.noConfusion, rfl,
    rfl, Instr.noConfusion, Instr.noConfusion, by decide, rfl⟩

theorem witness_OperationsTakeTheirEventsAndDelays :
    State.reset.Ready ∧ next (exec .clear .reset) (fun t => !t.fault.fv) = true
      ∧ next (exec .rd8 .reset) (fun t => t.fault.fv) = true :=
  ⟨rfl, by decide +kernel, by decide +kernel⟩

theorem witness_DataLineDrivenOnlyWhileClockLow :
    next (exec .rd8 opened) (fun t => t.trace.length == 42) = true := by decide

theorem witness_DisplayRegistersNeverReachTheHost :
    next (exec (.seg 1 0) .reset) (fun t => t.pc == 1) = true := by decide +kernel

theorem witness_PureOperationsReadOperandsOnly :
    State.reset.Ready ∧ opened.Ready ∧ (∃ sel code, Instr.font .inverted 21 = .font sel code)
      ∧ (∃ sel dig, Instr.remap .normal (Five.all 1) = .remap sel dig)
      ∧ ∃ raw, Instr.keydecode (Five.all 0xFF) = .keydecode raw :=
  ⟨rfl, rfl, ⟨_, _, rfl⟩, ⟨_, _, rfl⟩, _, rfl⟩

/-- BeginOpensTransaction, EndClosesTransaction, Wr8SendsBitsInOrder, Wr16SendsBitsInOrder,
Rd8AssemblesSamples, WordGoesOutLowByteFirst, WireCommandsAreWr8OfTheirByte, SelectionsWriteTheirRegister,
ClearBlanksAndRefreshes, RefreshEqualsHostFramedTransactions, GetbuttonsReadsFiveBytes and
GetbuttonsEqualsHostFramedRead: a ready state outside a transaction and one inside. -/
theorem witness_framing :
    (State.reset.Ready ∧ State.reset.stb = true) ∧ opened.Ready ∧ opened.stb = false :=
  ⟨⟨rfl, rfl⟩, rfl, rfl⟩

/-- The state's hypotheses, and the first and last bit. -/
theorem witness_FirstSampleLandsInBitZero :
    (opened.Ready ∧ opened.stb = false) ∧ (0 : Nat) < 8 ∧ (7 : Nat) < 8 :=
  ⟨⟨rfl, rfl⟩, by decide, by decide⟩

theorem witness_WireCommandsAreWr8OfTheirByte :
    ((.displayControl 0xF, 0x80 + (0xF : BitVec 4).setWidth 8) : Instr × Byte) ∈
      ([(.dm6g12s, 0x02), (.dm7g11s, 0x03), (.dataWriteInc, 0x40), (.dataRead, 0x42),
        (.dataWriteFixed, 0x44), (.displayControl 0xF, 0x80 + (0xF : BitVec 4).setWidth 8),
        (.addressSet, 0xC0)] : List (Instr × Byte)) := by decide

/-- SetbrightStoresControlValue and BrightnessReachesTheNextRefresh: both sides of the level's bound,
outside a transaction. -/
theorem witness_levels :
    State.reset.Ready ∧ State.reset.stb = true ∧ (7 : Byte).toNat ≤ 7 ∧ (8 : Byte).toNat > 7 :=
  ⟨rfl, rfl, by decide, by decide⟩

/-- DigitStoresGlyphAndRefreshes, SegStoresMaskAndRefreshes and FontAnswersTableEntry: both sides of the bounds
on positions and codes. -/
theorem witness_positions_and_codes :
    State.reset.Ready ∧ State.reset.stb = true ∧ (4 : Byte).toNat ≤ 4 ∧ (5 : Byte).toNat > 4
      ∧ (20 : Byte).toNat ≤ 20 ∧ (21 : Byte).toNat > 20 :=
  ⟨rfl, rfl, by decide, by decide, by decide, by decide⟩

/-- DigitsStoreGlyphsAndRefresh and SegsStoreMasksAndRefresh: the longest list that decodes, the empty
and the longest run that fit at a position, one too long, a position too high, and a bad code in a run that fits. -/
theorem witness_runs :
    (List.replicate 255 (0 : Byte)).length < 256
      ∧ ((4 : Byte).toNat ≤ 4 ∧ (4 : Byte).toNat + ([] : List Byte).length ≤ 5)
      ∧ ((0 : Byte).toNat ≤ 4 ∧ (0 : Byte).toNat + ([20, 0, 0, 0, 0] : List Byte).length ≤ 5
        ∧ ∀ c ∈ ([20, 0, 0, 0, 0] : List Byte), c.toNat ≤ 20)
      ∧ ((4 : Byte).toNat ≤ 4 ∧ (4 : Byte).toNat + ([1, 2] : List Byte).length > 5)
      ∧ (5 : Byte).toNat > 4
      ∧ ((3 : Byte).toNat ≤ 4 ∧ (3 : Byte).toNat + ([16, 21] : List Byte).length ≤ 5
        ∧ ∃ c ∈ ([16, 21] : List Byte), c.toNat > 20) := by decide +kernel

/-- RemapTablesAreExactlyTheAdmissibleOnes, RemapUsesFiveLines and IsolatedSegmentLightsItsCells: the rules
on the tables can be met, with I1 speaking of a grid. -/
theorem witness_RemapTables :
    (someTableN.WellFormed ∧ someTableN.NormalRules ∧ someTableI.WellFormed
        ∧ InvertedRule someTableN someTableI)
      ∧ (someTableN 5 0).seg = Segment.F.index := by
  unfold RemapTable.WellFormed RemapTable.NormalRules InvertedRule
  decide

/-- RemapIgnoresReservedBit and RemapUsesFiveLines: buffers that differ in bit 7 alone,
and a buffer of masks 0x00 and 0x80 alone. -/
theorem witness_RemapIgnoresReservedBit :
    (∀ (p : Fin 5) (k : Nat), k < 7 →
        ((Five.all (0xFF : Byte)).get p).getLsbD k = ((Five.all (0x7F : Byte)).get p).getLsbD k)
      ∧ (∀ p, (⟨0x00, 0x80, 0x00, 0x80, 0x80⟩ : Five Byte).get p = 0x00
        ∨ (⟨0x00, 0x80, 0x00, 0x80, 0x80⟩ : Five Byte).get p = 0x80)
      ∧ (0 : Nat) ∉ [1, 2, 7, 8, 9] ∧ (15 : Nat) ∉ [1, 2, 7, 8, 9] := by decide

theorem witness_RemapDistributesOverOr :
    ∀ p, (Five.all (0x7F : Byte)).get p = (Five.all (0x70 : Byte)).get p ||| (Five.all (0x0F : Byte)).get p := by
  decide

theorem witness_KeydecodeFollowsBitRule : ∀ i : Fin 5, 31 ≠ 2 * i.val ∧ 31 ≠ 16 + 2 * i.val := by decide

end Sys2Proof.Tests
end

section
/-! PROOFS. The lines agree with the trace (00_scope R9, R10): each primitive keeps the agreement, so
every body made of primitives does, and with the bodies every operation and every step. -/

namespace Sys2Proof.Machine

/-! ### Lines and trace under the primitives -/

theorem linesAfter_append_singleton (evs : List Event) (e : Event) :
    linesAfter (evs ++ [e]) = (linesAfter evs).after e := by
  simp [linesAfter]

namespace State.LinesMatchTrace

variable {s t : State}

/-- Lines that took one event's effect agree with the trace that took the event. -/
theorem emit {e : Event} (h : s.LinesMatchTrace) (hlines : t.lines = s.lines.after e)
    (htrace : t.trace = s.trace ++ [e]) : t.LinesMatchTrace := by
  unfold State.LinesMatchTrace at h ⊢
  rw [hlines, htrace, linesAfter_append_singleton, h]

/-- The agreement rests on the lines and the trace alone. -/
theorem congr (h : s.LinesMatchTrace) (hlines : t.lines = s.lines) (htrace : t.trace = s.trace) :
    t.LinesMatchTrace := by
  unfold State.LinesMatchTrace at h ⊢
  rw [hlines, htrace, h]

theorem drive (h : s.LinesMatchTrace) (l : Line) (lv : Level) : (s.drive l lv).LinesMatchTrace := by
  cases l <;> exact h.emit rfl rfl

theorem wait (h : s.LinesMatchTrace) (k : Nat) : (s.wait k).LinesMatchTrace := h.emit rfl rfl

theorem sampled (h : s.LinesMatchTrace) : s.sampled.LinesMatchTrace := h.emit rfl rfl

theorem setMode_inPu (h : s.LinesMatchTrace) : (s.setMode .inPu).LinesMatchTrace := h.emit rfl rfl

/-- Restoring the output is one event with forgetting the latch (10_state R23): between the two updates
the lines are not what the trace says. -/
theorem setMode_out_forgetDio (h : s.LinesMatchTrace) :
    (s.setMode .out).forgetDio.LinesMatchTrace := h.emit rfl rfl

theorem setDig (h : s.LinesMatchTrace) (p : Nat) (v : Byte) : (s.setDig p v).LinesMatchTrace :=
  h.congr rfl rfl

theorem setDigs (h : s.LinesMatchTrace) (p : Nat) (vs : List Byte) :
    (s.setDigs p vs).LinesMatchTrace := h.congr rfl rfl

theorem setCtrl (h : s.LinesMatchTrace) (v : BitVec 4) : (s.setCtrl v).LinesMatchTrace :=
  h.congr rfl rfl

theorem setFsel (h : s.LinesMatchTrace) (sel : Sel) : (s.setFsel sel).LinesMatchTrace :=
  h.congr rfl rfl

theorem setRsel (h : s.LinesMatchTrace) (sel : Sel) : (s.setRsel sel).LinesMatchTrace :=
  h.congr rfl rfl

theorem giveResult (h : s.LinesMatchTrace) (r : HostResult) : (s.giveResult r).LinesMatchTrace :=
  h.congr rfl rfl

theorem advance (h : s.LinesMatchTrace) : s.advance.LinesMatchTrace := h.congr rfl rfl

theorem raiseFault (h : s.LinesMatchTrace) (c : FaultCode) : (s.raiseFault c).LinesMatchTrace :=
  h.congr rfl rfl

/-! ### The transport's bodies -/

theorem beginBody (h : s.LinesMatchTrace) : s.beginBody.LinesMatchTrace := (h.drive .stb false).wait 1

theorem endBody (h : s.LinesMatchTrace) : s.endBody.LinesMatchTrace := (h.drive .stb true).wait 1

theorem writeSlot (h : s.LinesMatchTrace) (b : Level) : (s.writeSlot b).LinesMatchTrace :=
  ((((h.drive .clk false).drive .dio b).wait 1).drive .clk true).wait 1

theorem writeSlots (h : s.LinesMatchTrace) (bs : List Level) : (s.writeSlots bs).LinesMatchTrace :=
  List.foldlRecOn bs State.writeSlot h fun _ ht b _ => ht.writeSlot b

theorem wr8Body (h : s.LinesMatchTrace) (v8 : Byte) : (s.wr8Body v8).LinesMatchTrace :=
  (h.writeSlots _).wait 1

theorem wr16Body (h : s.LinesMatchTrace) (v16 : Word) : (s.wr16Body v16).LinesMatchTrace :=
  (h.writeSlots _).wait 1

theorem readSlot (h : s.LinesMatchTrace) (acc : Byte) : (readSlot acc s).2.LinesMatchTrace :=
  (((h.drive .clk false).wait 1).sampled.drive .clk true).wait 1

theorem readSlots (h : s.LinesMatchTrace) (n : Nat) (acc : Byte) :
    (readSlots n acc s).2.LinesMatchTrace := by
  induction n generalizing acc s with
  | zero => exact h
  | succ n ih => exact ih (h.readSlot acc) _

theorem rd8Body (h : s.LinesMatchTrace) : s.rd8Body.2.LinesMatchTrace :=
  (h.setMode_inPu.readSlots 8 0x00).setMode_out_forgetDio

/-! ### The refresh and the key read -/

theorem transaction (h : s.LinesMatchTrace) {send : State → State}
    (hsend : ∀ t : State, t.LinesMatchTrace → (send t).LinesMatchTrace) :
    (s.transaction send).LinesMatchTrace :=
  (hsend _ h.beginBody).endBody

theorem wr16Each (h : s.LinesMatchTrace) (ws : List Word) : (s.wr16Each ws).LinesMatchTrace :=
  List.foldlRecOn ws State.wr16Body h fun _ ht w _ => ht.wr16Body w

theorem command (h : s.LinesMatchTrace) (b : Byte) :
    (s.transaction fun t => t.wr8Body b).LinesMatchTrace :=
  h.transaction fun _ ht => ht.wr8Body b

theorem sendRefresh (h : s.LinesMatchTrace) (m : Seven Word) (ctrl : BitVec 4) :
    (s.sendRefresh m ctrl).LinesMatchTrace := by
  have hmatrix := (h.command dataWriteIncByte).transaction fun _ ht =>
    (ht.wr8Body addressSetByte).wr16Each m.toList
  unfold State.sendRefresh
  exact (hmatrix.command _).command _

theorem refresh (h : s.LinesMatchTrace) : s.refresh.LinesMatchTrace := h.sendRefresh _ _

theorem readFiveBytes (h : s.LinesMatchTrace) : s.readFiveBytes.2.LinesMatchTrace :=
  h.rd8Body.rd8Body.rd8Body.rd8Body.rd8Body

theorem keyRead (h : s.LinesMatchTrace) : s.keyRead.LinesMatchTrace :=
  (h.beginBody.wr8Body _).readFiveBytes.endBody.giveResult _

/-! ### Operations and steps -/

/-- The body of every operation keeps the agreement. -/
theorem bodyOf (h : s.LinesMatchTrace) (i : Instr) : (bodyOf i s).LinesMatchTrace :=
  match i with
  | .beginTxn => h.beginBody
  | .endTxn => h.endBody
  | .wr8 _ | .dm6g12s | .dm7g11s | .dataWriteInc | .dataRead | .dataWriteFixed | .displayControl _
  | .addressSet => h.wr8Body _
  | .wr16 v16 => h.wr16Body v16
  | .rd8 => h.rd8Body.giveResult _
  | .setbright _ _ => h.setCtrl _
  | .setfont sel => h.setFsel sel
  | .setfilter sel => h.setRsel sel
  | .digit _ _ | .seg _ _ => (h.setDig _ _).refresh
  | .digits _ _ | .segs _ _ | .clear => (h.setDigs _ _).refresh
  | .getbuttons => h.keyRead
  | .font _ _ | .remap _ _ | .keydecode _ => h.giveResult _

/-- Every operation keeps the agreement: halted, faulting (60_exceptions R222, R223) or completed. -/
theorem of_exec (h : s.LinesMatchTrace) {i : Instr} (hexec : exec i s = .next t) : t.LinesMatchTrace := by
  obtain ⟨-, rfl⟩ | ⟨-, c, -, rfl⟩ | ⟨-, -, rfl⟩ := exec_cases hexec
  · exact h
  · exact h.raiseFault c
  · exact (h.bodyOf i).advance

theorem of_step (h : s.LinesMatchTrace) (hstep : step s = .next t) : t.LinesMatchTrace := by
  obtain rfl | ⟨i, -, -, hexec⟩ := step_cases hstep
  · exact h
  · exact h.of_exec hexec

end State.LinesMatchTrace

/-- Settles O14: a step does nothing or runs one operation, and an operation's lines and trace change
only through the primitives of 00_scope R9, each of which keeps them in agreement. -/
theorem stepKeepsLinesMatchTrace : Obligations.StepKeepsLinesMatchTrace := by
  unfold Obligations.StepKeepsLinesMatchTrace
  intro s t h hstep
  exact h.of_step hstep

end Sys2Proof.Machine
end

section
/-! PROOFS. What one operation leaves in the fields that a host or a wire can see, each as a function of
the operation: the lines, the three settings and the results, beside `digAfter` and `eventsOf`. -/

namespace Sys2Proof.Machine

variable (s : State)

/-! ### The lines an operation leaves -/

/-- The lines after a byte is written: its top bit stays on the data line (40_transport R104). -/
def Lines.afterByte (l : Lines) (v : Byte) : Lines := { l with clk := true, dio := .known (v.getLsbD 7) }

/-- The lines after a completed operation, which the lines before it decide. -/
def Lines.afterOp (l : Lines) : Instr → Lines
  | .beginTxn => { l with stb := false }
  | .endTxn => { l with stb := true }
  | .wr8 v => l.afterByte v
  | .wr16 v => { l with clk := true, dio := .known (v.getLsbD 15) }
  | .rd8 => { l with clk := true, dio := .unknown, dir := .out }
  | .digit _ _ | .digits _ _ | .seg _ _ | .segs _ _ | .clear =>
    { l with stb := true, clk := true, dio := .known true }
  | .getbuttons => ⟨true, true, .unknown, .out⟩
  | .setbright _ _ | .setfont _ | .setfilter _ | .font _ _ | .remap _ _ | .keydecode _ => l
  | .dm6g12s => l.afterByte (displayModeByte submode6g12s)
  | .dm7g11s => l.afterByte (displayModeByte submode7g11s)
  | .dataWriteInc => l.afterByte dataWriteIncByte
  | .dataRead => l.afterByte dataReadByte
  | .dataWriteFixed => l.afterByte dataWriteFixedByte
  | .displayControl ctrl => l.afterByte (displayControlByte ctrl)
  | .addressSet => l.afterByte addressSetByte

theorem State.wr8Body_lines (v : Byte) : (s.wr8Body v).lines = s.lines.afterByte v := by
  rw [State.wr8Body_eq]; rfl

theorem State.refresh_lines :
    s.refresh.lines = { s.lines with stb := true, clk := true, dio := .known true } := by
  rw [State.refresh_eq]; rfl

theorem bodyOf_lines (i : Instr) : (bodyOf i s).lines = s.lines.afterOp i := by
  cases i with
  | beginTxn => exact congrArg State.lines s.beginBody_eq
  | endTxn => exact congrArg State.lines s.endBody_eq
  | wr16 v => exact congrArg State.lines (s.wr16Body_eq v)
  | rd8 => exact congrArg (fun read => read.2.lines) s.rd8Body_eq
  | getbuttons => exact congrArg State.lines s.keyRead_eq
  | wr8 | dm6g12s | dm7g11s | dataWriteInc | dataRead | dataWriteFixed | displayControl | addressSet =>
    exact s.wr8Body_lines _
  | digit | seg => exact State.refresh_lines (s.setDig _ _)
  | digits | segs | clear => exact State.refresh_lines (s.setDigs _ _)
  | setbright | setfont | setfilter | font | remap | keydecode => rfl

section
variable {l : Lines} {i : Instr}

theorem Lines.afterOp_stb (h : movesStrobe i = false) : (l.afterOp i).stb = l.stb := by
  cases i with
  | beginTxn | endTxn | digit | digits | seg | segs | clear | getbuttons => cases h
  | _ => rfl

theorem Lines.afterOp_clk_dio (h : clocksBits i = false) :
    (l.afterOp i).clk = l.clk ∧ (l.afterOp i).dio = l.dio := by
  cases i with
  | beginTxn | endTxn | setbright | setfont | setfilter | font | remap | keydecode => exact ⟨rfl, rfl⟩
  | _ => cases h

theorem Lines.afterOp_dir (hrd8 : i ≠ .rd8) (hkeys : i ≠ .getbuttons) : (l.afterOp i).dir = l.dir := by
  cases i with
  | rd8 => exact absurd rfl hrd8
  | getbuttons => exact absurd rfl hkeys
  | _ => rfl

/-- Bit slots end with the clock high (10_state R22). -/
theorem Lines.afterOp_clk_of_high (h : l.clk = true) : (l.afterOp i).clk = true := by
  cases i with
  | beginTxn | endTxn | setbright | setfont | setfilter | font | remap | keydecode => exact h
  | _ => rfl

/-- A read restores the data line to output (10_state R24). -/
theorem Lines.afterOp_dir_of_out (h : l.dir = .out) : (l.afterOp i).dir = .out := by
  cases i with
  | rd8 | getbuttons => rfl
  | _ => exact h

end

/-! ### The settings an operation leaves -/

/-- The registers that the configuration operations write (42_sequencer R171 to R173). -/
structure Settings where
  ctrl : BitVec 4
  fsel : Sel
  rsel : Sel

/-- The settings of a state. -/
def State.settings : Settings := ⟨s.ctrl, s.fsel, s.rsel⟩

/-- The settings after a completed operation: one register for each of the three operations. -/
def Settings.afterOp (r : Settings) : Instr → Settings
  | .setbright level on => { r with ctrl := controlValue level on }
  | .setfont sel => { r with fsel := sel }
  | .setfilter sel => { r with rsel := sel }
  | _ => r

theorem State.wr8Body_settings (v : Byte) : (s.wr8Body v).settings = s.settings := by
  rw [State.wr8Body_eq]; rfl

theorem State.wr16Body_settings (v : Word) : (s.wr16Body v).settings = s.settings := by
  rw [State.wr16Body_eq]; rfl

theorem State.refresh_settings : s.refresh.settings = s.settings := by
  rw [State.refresh_eq]; rfl

theorem State.keyRead_settings : s.keyRead.settings = s.settings := by
  rw [State.keyRead_eq]; rfl

theorem bodyOf_settings (i : Instr) : (bodyOf i s).settings = s.settings.afterOp i := by
  cases i with
  | wr16 v => exact s.wr16Body_settings v
  | rd8 => exact congrArg (fun read => read.2.settings) s.rd8Body_eq
  | getbuttons => exact s.keyRead_settings
  | wr8 | dm6g12s | dm7g11s | dataWriteInc | dataRead | dataWriteFixed | displayControl | addressSet =>
    exact s.wr8Body_settings _
  | digit | seg => exact State.refresh_settings (s.setDig _ _)
  | digits | segs | clear => exact State.refresh_settings (s.setDigs _ _)
  | beginTxn | endTxn | setbright | setfont | setfilter | font | remap | keydecode => rfl

section
variable {r : Settings} {i : Instr}

theorem Settings.afterOp_ctrl (h : ∀ level on, i ≠ .setbright level on) : (r.afterOp i).ctrl = r.ctrl := by
  cases i with
  | setbright level on => exact absurd rfl (h level on)
  | _ => rfl

theorem Settings.afterOp_fsel (h : ∀ sel, i ≠ .setfont sel) : (r.afterOp i).fsel = r.fsel := by
  cases i with
  | setfont sel => exact absurd rfl (h sel)
  | _ => rfl

theorem Settings.afterOp_rsel (h : ∀ sel, i ≠ .setfilter sel) : (r.afterOp i).rsel = r.rsel := by
  cases i with
  | setfilter sel => exact absurd rfl (h sel)
  | _ => rfl

end

/-- Only the display operations change the digit buffer (10_state R26). -/
theorem digAfter_of_not_isDisplay {i : Instr} (h : isDisplay i = false) : digAfter i s = s.dig := by
  cases i with
  | digit | digits | seg | segs | clear => cases h
  | _ => rfl

/-! ### The results an operation returns -/

/-- What a completed operation returns (30_encoding R73): the samples and the operands decide it. -/
def resultsOf (i : Instr) (s : State) : List HostResult :=
  match i with
  | .rd8 => [.byte (byteOfSamples s.sampleAt)]
  | .getbuttons => [.keys (keyMask s.rawKeys)]
  | .font sel code => [.byte (fontLookup sel code)]
  | .remap sel dig => [.matrix (remapMatrix (remapTable sel) dig)]
  | .keydecode raw => [.keys (keyMask raw)]
  | _ => []

theorem State.wr8Body_results (v : Byte) : (s.wr8Body v).results = s.results := by
  rw [State.wr8Body_eq]

theorem State.refresh_results : s.refresh.results = s.results := by
  rw [State.refresh_eq]

theorem bodyOf_results (i : Instr) : (bodyOf i s).results = s.results ++ resultsOf i s := by
  cases i with
  | rd8 => simp [bodyOf, resultsOf, State.rd8Body_eq]
  | getbuttons => exact congrArg State.results s.keyRead_eq
  | wr16 v => simp [bodyOf, resultsOf, State.wr16Body_eq]
  | wr8 | dm6g12s | dm7g11s | dataWriteInc | dataRead | dataWriteFixed | displayControl | addressSet =>
    simp [bodyOf, resultsOf, State.wr8Body_results]
  | digit | digits | seg | segs | clear => simp [bodyOf, resultsOf, State.refresh_results]
  | beginTxn | endTxn => exact (List.append_nil _).symm
  | setbright | setfont | setfilter => exact (List.append_nil _).symm
  | font | remap | keydecode => rfl

/-! ### Steps and halted operations -/

variable {s}

/-- While a fault is recorded no operation is started (60_exceptions R223). -/
theorem exec_of_halted (h : s.fault.fv = true) (i : Instr) : exec i s = .next s := by
  rw [exec_eq_perform, State.perform_halted h]

theorem State.presented_of_halted (h : s.fault.fv = true) : s.presented = .nothing := by
  simp [State.presented, h]

theorem State.presented_request (h : s.Ready) {r : Request} (hr : s.program[s.pc]? = some r) :
    s.presented = .request r := by
  simp [State.presented, show s.fault.fv = false from h, hr]

theorem State.presented_at_end (h : s.Ready) (hpc : s.pc = s.program.length) :
    s.presented = .nothing := by
  simp [State.presented, show s.fault.fv = false from h, hpc]

theorem State.presented_beyond (h : s.Ready) (hpc : s.pc > s.program.length) :
    s.presented = .beyond := by
  have hnone : s.program[s.pc]? = none := List.getElem?_eq_none hpc.le
  simp [State.presented, show s.fault.fv = false from h, hnone, hpc.ne']

theorem step_of_nothing (h : s.presented = .nothing) : step s = .next s := by
  simp [step, h]

theorem step_of_beyond (h : s.presented = .beyond) : step s = .fault .pcBeyondProgram := by
  simp [step, h]

theorem step_of_decoded {r : Request} {i : Instr} (h : s.presented = .request r)
    (hd : decodeRequest r = .ok i) : step s = exec i s := by
  simp [step, h, hd]

theorem step_of_undecodable {r : Request} {e : DecodeError} (h : s.presented = .request r)
    (hd : decodeRequest r = .error e) : step s = .refused (.undecodable e) := by
  simp [step, h, hd]

end Sys2Proof.Machine
end

section
/-! PROOFS. The state between operations: the idle form, `pc`, each register's only writers, and the
display registers' absence from what the host sees. -/

namespace Sys2Proof.Machine

/-! ### The idle form -/

namespace State.Idle

variable {s t : State}

theorem resetWith (d : Nat) : (State.resetWith d).Idle := ⟨rfl, rfl, .inl ⟨rfl, rfl⟩, Nat.zero_le _⟩

theorem applyReset (s : State) (d : Nat) : (s.applyReset d).Idle :=
  ⟨rfl, rfl, .inl ⟨rfl, rfl⟩, Nat.zero_le _⟩

theorem raiseFault (h : s.Idle) (c : FaultCode) : (s.raiseFault c).Idle := by
  obtain ⟨hclk, hdir, -, hpc⟩ := h
  exact ⟨hclk, hdir, c.bits_legal, hpc⟩

/-- A completed operation that stood within the program leaves `pc` at most at its end (10_state R36). -/
theorem advance_bodyOf (h : s.Idle) (hpc : s.pc < s.program.length) (i : Instr) :
    (bodyOf i s).advance.Idle := by
  obtain ⟨hclk, hdir, hfault, -⟩ := h
  obtain ⟨hfault', hpc', hprogram', -⟩ := bodyOf_frame i s
  have hlines := bodyOf_lines s i
  refine ⟨?_, ?_, ?_, ?_⟩
  · exact (congrArg Lines.clk hlines).trans (Lines.afterOp_clk_of_high hclk)
  · exact (congrArg Lines.dir hlines).trans (Lines.afterOp_dir_of_out hdir)
  · rwa [advance_fault, hfault']
  · rwa [advance_pc, advance_program, hpc', hprogram']

theorem of_exec (h : s.Idle) (hpc : s.pc < s.program.length) {i : Instr} (hexec : exec i s = .next t) :
    t.Idle := by
  obtain ⟨-, rfl⟩ | ⟨-, c, -, rfl⟩ | ⟨-, -, rfl⟩ := exec_cases hexec
  · exact h
  · exact h.raiseFault c
  · exact h.advance_bodyOf hpc i

theorem of_step (h : s.Idle) (hstep : step s = .next t) : t.Idle := by
  obtain rfl | ⟨i, -, hpc, hexec⟩ := step_cases hstep
  · exact h
  · exact h.of_exec hpc hexec

end State.Idle

/-- Settles O13: a step does nothing or runs the operation at an index of the program; the operation's
lines are `Lines.afterOp`, and a fault it records has a legal code. -/
theorem stepKeepsIdle : Obligations.StepKeepsIdle := by
  unfold Obligations.StepKeepsIdle
  intro s t h hstep
  exact h.of_step hstep

/-- Settles O12: reset writes all the fields that both invariants speak of, and empties the trace. -/
theorem invariantsHoldAfterReset : Obligations.InvariantsHoldAfterReset := by
  unfold Obligations.InvariantsHoldAfterReset
  exact ⟨fun d => ⟨.resetWith d, rfl⟩, fun s d => ⟨.applyReset s d, rfl⟩⟩

/-! ### The program counter -/

/-- Settles O4, by what an operation in a ready state can do: record a fault, which moves nothing else,
or complete, which leaves `FAULT`. -/
theorem pcCountsCompletedOperations : Obligations.PcCountsCompletedOperations := by
  unfold Obligations.PcCountsCompletedOperations
  intro i s t hready hexec
  have hfv : s.fault.fv = false := hready
  obtain ⟨hhalted, -⟩ | ⟨-, c, -, rfl⟩ | ⟨-, -, rfl⟩ := exec_cases hexec
  · simp [hfv] at hhalted
  · simp
  · obtain ⟨hfault, hpc, -, -⟩ := bodyOf_frame i s
    simp [hfault, hpc, hfv]

/-! ### Steps with and without an operation -/

/-- Settles O1: a halted machine leaves the state in a step as in an operation, a ready one runs the
operation it is presented. -/
theorem stepRunsDecodedOperation : Obligations.StepRunsDecodedOperation := by
  unfold Obligations.StepRunsDecodedOperation
  intro s r i hr hd
  cases hfv : s.fault.fv with
  | true => rw [step_of_nothing (State.presented_of_halted hfv), exec_of_halted hfv]
  | false => exact step_of_decoded (State.presented_request hfv hr) hd

/-- Settles O3: the three things a ready machine can be presented instead of an operation. -/
theorem stepWithoutOperation : Obligations.StepWithoutOperation := by
  unfold Obligations.StepWithoutOperation
  intro s hready
  refine ⟨fun hpc => ?_, fun r e hr hd => ?_, fun hpc => ?_⟩
  · exact step_of_nothing (State.presented_at_end hready hpc)
  · exact step_of_undecodable (State.presented_request hready hr) hd
  · exact step_of_beyond (State.presented_beyond hready hpc)

/-! ### Writers -/

/-- Settles O17: halted and faulting operations write at most `FAULT`; a completed one writes the lines of
`Lines.afterOp`, the settings of `Settings.afterOp` and the digit buffer of `digAfter`. -/
theorem registersHaveTheirOnlyWriters : Obligations.RegistersHaveTheirOnlyWriters := by
  unfold Obligations.RegistersHaveTheirOnlyWriters
  intro i s t hexec
  obtain ⟨-, rfl⟩ | ⟨-, c, -, rfl⟩ | ⟨-, -, rfl⟩ := exec_cases hexec
  · simp
  · exact ⟨rfl, rfl, fun _ => rfl, fun _ => rfl, fun _ => rfl, fun _ => rfl, fun _ => rfl,
      fun _ => ⟨rfl, rfl⟩, fun _ _ => rfl, .inr ⟨c, rfl⟩⟩
  · obtain ⟨hfault, -, hprogram, hbitDelay⟩ := bodyOf_frame i s
    have hlines := bodyOf_lines s i
    have hsettings := bodyOf_settings s i
    refine ⟨hbitDelay, hprogram, fun h => ?_, fun h => ?_, fun h => ?_, fun h => ?_, fun h => ?_,
      fun h => ?_, fun hrd8 hkeys => ?_, .inl hfault⟩
    · exact (congrArg Settings.ctrl hsettings).trans (Settings.afterOp_ctrl h)
    · exact (congrArg Settings.fsel hsettings).trans (Settings.afterOp_fsel h)
    · exact (congrArg Settings.rsel hsettings).trans (Settings.afterOp_rsel h)
    · exact (bodyOf_dig i s).trans (digAfter_of_not_isDisplay s h)
    · exact (congrArg Lines.stb hlines).trans (Lines.afterOp_stb h)
    · obtain ⟨hclk, hdio⟩ := Lines.afterOp_clk_dio (l := s.lines) h
      exact ⟨(congrArg Lines.clk hlines).trans hclk, (congrArg Lines.dio hlines).trans hdio⟩
    · exact (congrArg Lines.dir hlines).trans (Lines.afterOp_dir hrd8 hkeys)

/-! ### Display registers and the host -/

/-- The state with other contents in the display registers `DIG`, `CTRL`, `FSEL` and `RSEL`. -/
def State.withDisplayRegisters (s : State) (dig : Five Byte) (ctrl : BitVec 4) (fsel rsel : Sel) : State :=
  { s with dig := dig, ctrl := ctrl, fsel := fsel, rsel := rsel }

section
variable (i : Instr) (s : State) (dig : Five Byte) (ctrl : BitVec 4) (fsel rsel : Sel)

/-- An operation's checks read its operands and `STB` (40_transport R100). -/
theorem checkOf_withDisplayRegisters :
    checkOf i (s.withDisplayRegisters dig ctrl fsel rsel) = checkOf i s := by
  cases i <;> rfl

/-- An operation's results are made of its operands and the samples. -/
theorem resultsOf_withDisplayRegisters :
    resultsOf i (s.withDisplayRegisters dig ctrl fsel rsel) = resultsOf i s := by
  cases i <;> rfl

theorem bodyOf_withDisplayRegisters_results :
    (bodyOf i (s.withDisplayRegisters dig ctrl fsel rsel)).results = (bodyOf i s).results := by
  rw [bodyOf_results, bodyOf_results, resultsOf_withDisplayRegisters]; rfl

theorem bodyOf_withDisplayRegisters_lines :
    (bodyOf i (s.withDisplayRegisters dig ctrl fsel rsel)).lines = (bodyOf i s).lines := by
  rw [bodyOf_lines, bodyOf_lines]; rfl

theorem bodyOf_withDisplayRegisters_frame :
    (bodyOf i (s.withDisplayRegisters dig ctrl fsel rsel)).fault = (bodyOf i s).fault
      ∧ (bodyOf i (s.withDisplayRegisters dig ctrl fsel rsel)).pc = (bodyOf i s).pc := by
  obtain ⟨hfault, hpc, -, -⟩ := bodyOf_frame i s
  obtain ⟨hfault', hpc', -, -⟩ := bodyOf_frame i (s.withDisplayRegisters dig ctrl fsel rsel)
  exact ⟨hfault'.trans hfault.symm, hpc'.trans hpc.symm⟩

end

/-- Settles O20: the checks, the lines left and the results of an operation do not depend on the display
registers, so both runs are halted, fault or complete alike. -/
theorem displayRegistersNeverReachTheHost : Obligations.DisplayRegistersNeverReachTheHost := by
  unfold Obligations.DisplayRegistersNeverReachTheHost
  intro i s t dig ctrl fsel rsel hexec
  change ∃ u, exec i (s.withDisplayRegisters dig ctrl fsel rsel) = .next u ∧ _
  have hcheck := checkOf_withDisplayRegisters i s dig ctrl fsel rsel
  obtain ⟨hhalted, rfl⟩ | ⟨hready, c, hc, rfl⟩ | ⟨hready, hc, rfl⟩ := exec_cases hexec
  · refine ⟨_, exec_of_halted ?_ i, rfl, rfl, rfl, rfl⟩
    exact hhalted
  · refine ⟨_, exec_of_fault ?_ (hcheck.trans hc), rfl, rfl, rfl, rfl⟩
    exact hready
  · obtain ⟨hfault, hpc⟩ := bodyOf_withDisplayRegisters_frame i s dig ctrl fsel rsel
    refine ⟨_, exec_of_check ?_ (hcheck.trans hc), ?_, hfault, congrArg (· + 1) hpc, ?_⟩
    · exact hready
    · exact bodyOf_withDisplayRegisters_results i s dig ctrl fsel rsel
    · exact bodyOf_withDisplayRegisters_lines i s dig ctrl fsel rsel

end Sys2Proof.Machine
end

section
/-! PROOFS. What the host is told and what the wire carries: the pure queries, the bits of a byte read, and
the order in which a word goes out (20_memory R53, R54, R60). -/

namespace Sys2Proof.Machine

/-! ### The pure queries -/

/-- FONT, REMAP and KEYDECODE take their check and their result from their operands (20_memory R60). -/
theorem pureOperation_shape {i : Instr}
    (h : (∃ sel code, i = .font sel code) ∨ (∃ sel dig, i = .remap sel dig) ∨ ∃ raw, i = .keydecode raw) :
    ∃ check res, (∀ s, checkOf i s = check) ∧ ∀ s, bodyOf i s = s.giveResult res := by
  obtain ⟨sel, code, rfl⟩ | ⟨sel, dig, rfl⟩ | ⟨raw, rfl⟩ := h
  · exact ⟨checkCode code, .byte (fontLookup sel code), fun _ => rfl, fun _ => rfl⟩
  · exact ⟨none, .matrix (remapMatrix (remapTable sel) dig), fun _ => rfl, fun _ => rfl⟩
  · exact ⟨none, .keys (keyMask raw), fun _ => rfl, fun _ => rfl⟩

/-- Settles O21: the operands alone decide whether the query faults, and what it answers if not. -/
theorem pureOperationsReadOperandsOnly : Obligations.PureOperationsReadOperandsOnly := by
  unfold Obligations.PureOperationsReadOperandsOnly
  intro i s s' hs hs' hpure
  obtain ⟨check, res, hcheck, hbody⟩ := pureOperation_shape hpure
  cases check with
  | some c => exact .inl ⟨c.bits, exec_of_fault hs (hcheck s), exec_of_fault hs' (hcheck s')⟩
  | none =>
    refine .inr ⟨res, ?_, ?_⟩
    · rw [exec_of_check hs (hcheck s), hbody]; rfl
    · rw [exec_of_check hs' (hcheck s'), hbody]; rfl

/-! ### The bits of a byte read -/

/-- Sample n's term of the sum that makes a byte of samples (40_transport R112). -/
def sampleTerm (b : Level) (n : Nat) : Byte := (BitVec.ofBool b).setWidth 8 <<< n

/-- The first n terms of that sum. -/
def sampleSum (b : Nat → Level) (n : Nat) : Byte :=
  (List.range n).foldl (fun acc i => acc + sampleTerm (b i) i) 0

theorem sampleSum_succ (b : Nat → Level) (n : Nat) :
    sampleSum b (n + 1) = sampleSum b n + sampleTerm (b n) n := by
  simp [sampleSum, List.range_succ]

/-- A sample's term is its one bit. -/
theorem sampleTerm_getLsbD (b : Level) (n i : Nat) :
    (sampleTerm b n).getLsbD i = (decide (i < 8 ∧ i = n) && b) := by
  rcases lt_trichotomy i n with h | rfl | h
  · simp [sampleTerm, h, h.ne]
  · simp [sampleTerm]
  · have hsub : ¬ i - n = 0 := by omega
    simp [sampleTerm, h.ne', hsub]

/-- Each term of the sum adds a bit above those of the terms before it, so none carries. -/
theorem sampleSum_getLsbD (b : Nat → Level) (n i : Nat) :
    (sampleSum b n).getLsbD i = (decide (i < 8 ∧ i < n) && b i) := by
  induction n generalizing i with
  | zero => simp [sampleSum]
  | succ n ih =>
    have hdisjoint : sampleSum b n &&& sampleTerm (b n) n = 0#8 := by
      apply BitVec.eq_of_getLsbD_eq
      intro j _
      rw [BitVec.getLsbD_and, ih, sampleTerm_getLsbD]
      grind
    rw [sampleSum_succ, BitVec.add_eq_or_of_and_eq_zero _ _ hdisjoint, BitVec.getLsbD_or, ih,
      sampleTerm_getLsbD]
    grind

theorem byteOfSamples_eq_sampleSum (b : Nat → Level) : byteOfSamples b = sampleSum b 8 := rfl

theorem byteOfSamples_getLsbD (b : Nat → Level) {i : Nat} (h : i < 8) :
    (byteOfSamples b).getLsbD i = b i := by
  rw [byteOfSamples_eq_sampleSum, sampleSum_getLsbD]
  simp [h]

/-- Settles O27: RD8 answers the sum of the samples at their places, whose bit i is sample i. -/
theorem firstSampleLandsInBitZero : Obligations.FirstSampleLandsInBitZero := by
  unfold Obligations.FirstSampleLandsInBitZero
  intro s hready hstb
  have hexec := exec_of_check (i := .rd8) hready (State.checkInside_eq_none.2 hstb)
  exact ⟨_, byteOfSamples s.sampleAt, hexec, bodyOf_results s .rd8, fun _ => byteOfSamples_getLsbD _⟩

/-! ### The order of a word -/

/-- Writing a value is its bits' slots and a settle wait (40_transport R104, R108). -/
theorem writeEvents_eq {n : Nat} (v : BitVec n) :
    writeEvents v = (wireBits v).flatMap slotEvents ++ [.wait 1] := by
  simp [writeEvents, wireBits, List.flatMap_map]

theorem dataLevels_append (xs ys : List Event) :
    dataLevels (xs ++ ys) = dataLevels xs ++ dataLevels ys := by
  induction xs with
  | nil => rfl
  | cons e xs ih =>
    cases e with
    | drive l lv => cases l <;> simp [dataLevels, ih]
    | mode | wait | sample => exact ih

theorem dataLevels_slots (bs : List Level) : dataLevels (bs.flatMap slotEvents) = bs := by
  induction bs with
  | nil => rfl
  | cons b bs ih => exact congrArg (b :: ·) ih

/-- A value puts its bits on DIO in wire order. -/
theorem dataLevels_writeEvents {n : Nat} (v : BitVec n) : dataLevels (writeEvents v) = wireBits v := by
  rw [writeEvents_eq, dataLevels_append, dataLevels_slots]
  exact List.append_nil _

theorem bitDelays_append (xs ys : List Event) : bitDelays (xs ++ ys) = bitDelays xs + bitDelays ys := by
  simp [bitDelays]

theorem bitDelays_slots (bs : List Level) : bitDelays (bs.flatMap slotEvents) = 2 * bs.length := by
  induction bs with
  | nil => rfl
  | cons b bs ih =>
    have hslot : bitDelays (slotEvents b) = 2 := rfl
    rw [List.flatMap_cons, bitDelays_append, ih, hslot, List.length_cons]
    omega

/-- Two bit-delays for each bit and one to settle (70_reset R270). -/
theorem bitDelays_writeEvents {n : Nat} (v : BitVec n) : bitDelays (writeEvents v) = 2 * n + 1 := by
  rw [writeEvents_eq, bitDelays_append, bitDelays_slots, wireBits, List.length_map, List.length_range]
  rfl

/-- The low part's bits come first on the wire (20_memory R54). -/
theorem wireBits_append {m n : Nat} (hi : BitVec m) (lo : BitVec n) :
    wireBits (hi ++ lo) = wireBits lo ++ wireBits hi := by
  have hrange : List.range (m + n) = List.range n ++ (List.range m).map (n + ·) := by
    rw [Nat.add_comm, List.range_add]
  rw [wireBits, hrange, List.map_append, List.map_map]
  congr 1
  · refine List.map_congr_left fun i hmem => ?_
    simp [BitVec.getLsbD_append, List.mem_range.1 hmem]
  · refine List.map_congr_left fun i _ => ?_
    simp [BitVec.getLsbD_append]

/-- WR8 inside a transaction completes there, with its byte's events and top bit (40_transport R104). -/
theorem exec_wr8_completes {s : State} (hready : s.Ready) (hstb : s.stb = false) (v : Byte) :
    ∃ t, exec (.wr8 v) s = .next t ∧ t.Ready ∧ t.stb = false ∧ t.trace = s.trace ++ writeEvents v
      ∧ t.dio = .known (v.getLsbD 7) := by
  have hlines := s.wr8Body_lines v
  obtain ⟨hfault, -, -, -⟩ := bodyOf_frame (.wr8 v) s
  refine ⟨_, exec_of_check hready (State.checkInside_eq_none.2 hstb), ?_, ?_, ?_, ?_⟩
  · exact (congrArg FaultReg.fv hfault).trans hready
  · exact (congrArg Lines.stb hlines).trans hstb
  · exact (State.advance_trace _).trans (bodyOf_trace (.wr8 v) s)
  · exact congrArg Lines.dio hlines

theorem execAll_cons {i : Instr} {s t : State} (h : exec i s = .next t) (is : List Instr) :
    execAll (i :: is) s = execAll is t := by
  simp [execAll, h]

/-- Settles O28: the bits of a word in wire order are those of its low byte and then of its high byte, and
the pair of bytes has a settle wait for each. -/
theorem wordGoesOutLowByteFirst : Obligations.WordGoesOutLowByteFirst := by
  unfold Obligations.WordGoesOutLowByteFirst
  intro lo hi s hready hstb
  have hword := exec_of_check (i := .wr16 (hi ++ lo)) hready (State.checkInside_eq_none.2 hstb)
  obtain ⟨m, hlow, hmready, hmstb, hmtrace, -⟩ := exec_wr8_completes hready hstb lo
  obtain ⟨u, hhigh, -, -, hutrace, hudio⟩ := exec_wr8_completes hmready hmstb hi
  have hpair : execAll [.wr8 lo, .wr8 hi] s = .next u :=
    (execAll_cons hlow _).trans (execAll_cons hhigh _)
  have htrace : (bodyOf (.wr16 (hi ++ lo)) s).advance.trace = s.trace ++ writeEvents (hi ++ lo) :=
    (State.advance_trace _).trans (bodyOf_trace (.wr16 (hi ++ lo)) s)
  have hdio : (bodyOf (.wr16 (hi ++ lo)) s).advance.dio = .known ((hi ++ lo).getLsbD 15) :=
    (State.advance_dio _).trans (congrArg Lines.dio (bodyOf_lines s (.wr16 (hi ++ lo))))
  refine ⟨_, u, hword, hpair, ?_, ?_, ?_⟩
  · simp only [htrace, hutrace, hmtrace, dataLevels_append, dataLevels_writeEvents, wireBits_append,
      List.append_assoc]
  · rw [hdio, hudio, BitVec.getLsbD_append]; rfl
  · simp only [htrace, hutrace, hmtrace, bitDelays_append, bitDelays_writeEvents]

end Sys2Proof.Machine
end

section
/-! PROOFS. Decoder and encoder agree (30_encoding R71 to R75, R80 to R84): an operand's format is read
exactly, cut short it is refused, and what is read is what the encoder writes. -/

namespace Sys2Proof

/-! ### Bytes read exactly -/

/-- `read` takes exactly these bytes for the value, whatever follows them, and refuses every proper part of
them as a wrong shape (30_encoding R71, R74). -/
structure ReadsExactly {α : Type} (read : List Byte → Decoded α) (bytes : List Byte) (a : α) : Prop where
  whole : ∀ rest, read (bytes ++ rest) = .ok (a, rest)
  cut : ∀ k < bytes.length, read (bytes.take k) = .error .wrongShape

/-- A reader of one byte can be cut short only to nothing. -/
theorem ReadsExactly.single {α : Type} {read : List Byte → Decoded α} {b : Byte} {a : α}
    (hwhole : ∀ rest, read (b :: rest) = .ok (a, rest)) (hempty : read [] = .error .wrongShape) :
    ReadsExactly read [b] a :=
  ⟨hwhole, fun k hk => by rwa [show k = 0 by simpa using hk]⟩

/-- A reader without operands cannot be cut short. -/
theorem ReadsExactly.nothing {α : Type} {read : List Byte → Decoded α} {a : α}
    (h : ∀ rest, read rest = .ok (a, rest)) : ReadsExactly read [] a :=
  ⟨h, fun _ hk => absurd hk (Nat.not_lt_zero _)⟩

theorem readByte_exact (b : Byte) : ReadsExactly readByte [b] b := .single (readByte_cons b) rfl

theorem readSel_exact (sel : Sel) : ReadsExactly readSel [selByte sel] sel := .single (readSel_selByte sel) rfl

theorem readOn_exact (on : Bool) : ReadsExactly readOn [onByte on] on := .single (readOn_onByte on) rfl

theorem readWord_exact (v : Word) : ReadsExactly readWord [v.extractLsb' 0 8, v.extractLsb' 8 8] v where
  whole := readWord_bytes v
  cut k hk := by
    simp only [List.length_cons, List.length_nil] at hk
    interval_cases k <;> rfl

theorem readFive_exact (v : Five Byte) : ReadsExactly readFive v.toList v where
  whole := readFive_toList v
  cut k hk := by
    simp only [Five.toList, List.length_cons, List.length_nil] at hk
    interval_cases k <;> rfl

theorem readList_exact {l : List Byte} (h : listFits l = true) : ReadsExactly readList (listBytes l) l where
  whole := readList_listBytes h
  cut k hk := by
    have hl : l.length < 256 := by simpa [listFits] using h
    cases k with
    | zero => rfl
    | succ j =>
      have hj : j < l.length := by simpa [listBytes] using hk
      have hshort : (l.take j).length < (BitVec.ofNat 8 l.length).toNat := by
        rw [BitVec.toNat_ofNat, List.length_take]; omega
      exact if_pos hshort

/-! ### Readers put together -/

theorem one_of_ok {α : Type} {read : List Byte → Decoded α} {bs rest : List Byte} {a : α}
    (h : read bs = .ok (a, rest)) (make : α → Instr) : one read make bs = .ok (make a, rest) := by
  simp [one, h]

theorem one_of_error {α : Type} {read : List Byte → Decoded α} {bs : List Byte} {e : DecodeError}
    (h : read bs = .error e) (make : α → Instr) : one read make bs = .error e := by
  simp [one, h]

section
variable {α β : Type} {readA : List Byte → Decoded α} {readB : List Byte → Decoded β}

theorem two_of_ok {bs rest : List Byte} {a : α} (h : readA bs = .ok (a, rest)) (make : α → β → Instr) :
    two readA readB make bs = one readB (make a) rest := by
  simp [two, h]

theorem two_of_error {bs : List Byte} {e : DecodeError} (h : readA bs = .error e) (make : α → β → Instr) :
    two readA readB make bs = .error e := by
  simp [two, h]

theorem ReadsExactly.one {as : List Byte} {a : α} (h : ReadsExactly readA as a) (make : α → Instr) :
    ReadsExactly (one readA make) as (make a) :=
  ⟨fun rest => one_of_ok (h.whole rest) make, fun k hk => one_of_error (h.cut k hk) make⟩

/-- Two operands are read exactly: a cut falls into the first, or behind it into the second. -/
theorem ReadsExactly.two {as bs : List Byte} {a : α} {b : β} (ha : ReadsExactly readA as a)
    (hb : ReadsExactly readB bs b) (make : α → β → Instr) :
    ReadsExactly (two readA readB make) (as ++ bs) (make a b) where
  whole rest := by
    rw [List.append_assoc, two_of_ok (ha.whole _)]
    exact one_of_ok (hb.whole rest) _
  cut k hk := by
    by_cases hcut : k < as.length
    · rw [List.take_append_of_le_length hcut.le]
      exact two_of_error (ha.cut k hcut) make
    · have hk' : k - as.length < bs.length := by rw [List.length_append] at hk; omega
      rw [List.take_append, List.take_of_length_le (by omega), two_of_ok (ha.whole _)]
      exact one_of_error (hb.cut _ hk') _

end

/-! ### The byte of DISPLAY_CONTROL -/

/-- `CTRL` lies in the low half of its byte, under 1000 (30_encoding R83). -/
theorem displayControlByte_toNat (c : BitVec 4) : (Machine.displayControlByte c).toNat = 128 + c.toNat := by
  have hc : c.toNat < 2 ^ 4 := c.isLt
  have hor : 128 + c.toNat = 128 ||| c.toNat := Nat.two_pow_add_eq_or_of_lt hc 8
  have hmod : c.toNat % 256 = c.toNat := Nat.mod_eq_of_lt (by omega)
  simp [Machine.displayControlByte, hor, hmod]

theorem displayControlByte_setWidth {b : Byte} (h : b.toNat / 16 = 8) :
    Machine.displayControlByte (b.setWidth 4) = b := by
  apply BitVec.eq_of_toNat_eq
  rw [displayControlByte_toNat, BitVec.toNat_setWidth]
  omega

theorem decodeWire_displayControl (c : BitVec 4) (rest : List Byte) :
    decodeWire (Machine.displayControlByte c :: rest) = .ok (.displayControl c, rest) := by
  have hnat := displayControlByte_toNat c
  have hclass : (Machine.displayControlByte c).toNat / 16 = 8 := by omega
  have hctrl : (Machine.displayControlByte c).setWidth 4 = c := by
    apply BitVec.eq_of_toNat_eq
    rw [BitVec.toNat_setWidth, hnat]
    omega
  simp [decodeWire, hclass, hctrl]

/-! ### What the encoder writes -/

/-- After its first byte, the decoder reads exactly the operand bytes of what the encoder writes. -/
theorem encode_readsExactly {i : Instr} (h : i.wellFormed = true) :
    ∃ first operands, (encode i).bytes = first :: operands ∧
      ReadsExactly (fun bs => decodeAt (encode i).port (first :: bs)) operands i := by
  cases i with
  | beginTxn => exact ⟨_, _, rfl, .nothing fun _ => rfl⟩
  | endTxn => exact ⟨_, _, rfl, .nothing fun _ => rfl⟩
  | wr8 v => exact ⟨_, _, rfl, (readByte_exact v).one .wr8⟩
  | wr16 v => exact ⟨_, _, rfl, (readWord_exact v).one .wr16⟩
  | rd8 => exact ⟨_, _, rfl, .nothing fun _ => rfl⟩
  | setbright level on => exact ⟨_, _, rfl, (readByte_exact level).two (readOn_exact on) .setbright⟩
  | setfont sel => exact ⟨_, _, rfl, (readSel_exact sel).one .setfont⟩
  | setfilter sel => exact ⟨_, _, rfl, (readSel_exact sel).one .setfilter⟩
  | digit code pos => exact ⟨_, _, rfl, (readByte_exact code).two (readByte_exact pos) .digit⟩
  | digits codes pos => exact ⟨_, _, rfl, (readList_exact h).two (readByte_exact pos) .digits⟩
  | seg mask pos => exact ⟨_, _, rfl, (readByte_exact mask).two (readByte_exact pos) .seg⟩
  | segs masks pos => exact ⟨_, _, rfl, (readList_exact h).two (readByte_exact pos) .segs⟩
  | clear => exact ⟨_, _, rfl, .nothing fun _ => rfl⟩
  | getbuttons => exact ⟨_, _, rfl, .nothing fun _ => rfl⟩
  | font sel code => exact ⟨_, _, rfl, (readSel_exact sel).two (readByte_exact code) .font⟩
  | remap sel dig => exact ⟨_, _, rfl, (readSel_exact sel).two (readFive_exact dig) .remap⟩
  | keydecode raw => exact ⟨_, _, rfl, (readFive_exact raw).one .keydecode⟩
  | dm6g12s => exact ⟨_, _, rfl, .nothing fun _ => rfl⟩
  | dm7g11s => exact ⟨_, _, rfl, .nothing fun _ => rfl⟩
  | dataWriteInc => exact ⟨_, _, rfl, .nothing fun _ => rfl⟩
  | dataRead => exact ⟨_, _, rfl, .nothing fun _ => rfl⟩
  | dataWriteFixed => exact ⟨_, _, rfl, .nothing fun _ => rfl⟩
  | displayControl ctrl => exact ⟨_, _, rfl, .nothing (decodeWire_displayControl ctrl)⟩
  | addressSet => exact ⟨_, _, rfl, .nothing fun _ => rfl⟩

/-- The decoder reads the encoder's bytes as the operation and leaves what follows them. -/
theorem decodeAt_encode {i : Instr} (h : i.wellFormed = true) (rest : List Byte) :
    decodeAt (encode i).port ((encode i).bytes ++ rest) = .ok (i, rest) := by
  obtain ⟨first, operands, hbytes, hread⟩ := encode_readsExactly h
  rw [hbytes]
  exact hread.whole rest

/-- The decoder refuses the encoder's bytes cut short after the first. -/
theorem decodeAt_encode_take {i : Instr} (h : i.wellFormed = true) {k : Nat} (hpos : 0 < k)
    (hk : k < (encode i).bytes.length) :
    decodeAt (encode i).port ((encode i).bytes.take k) = .error .wrongShape := by
  obtain ⟨first, operands, hbytes, hread⟩ := encode_readsExactly h
  obtain ⟨j, rfl⟩ : ∃ j, k = j + 1 := ⟨k - 1, by omega⟩
  rw [hbytes] at hk ⊢
  exact hread.cut j (by simpa using hk)

/-- Settles O6: the decoder reads exactly the bytes the encoder writes. -/
theorem encodeThenDecode : Obligations.EncodeThenDecode := by
  unfold Obligations.EncodeThenDecode
  intro i hwf
  exact decodeRequest_ok.2 (by simpa using decodeAt_encode hwf [])

/-! ### What the decoder accepts -/

/-- The operand bytes that decode under an `OP` are those the encoder writes after it. -/
theorem encode_of_decodeOperands {op : Byte} {bs : List Byte} {i : Instr}
    (h : decodeOperands op bs = .ok (i, [])) : i.wellFormed = true ∧ encode i = ⟨.hostOp, op :: bs⟩ := by
  rw [show op = BitVec.ofNat 8 op.toNat by simp]
  unfold decodeOperands at h
  generalize op.toNat = n at h ⊢
  split at h  -- one case for each row of `decodeOperands`, in its order
  case h_1 => cases h; exact ⟨rfl, rfl⟩
  case h_2 => cases h; exact ⟨rfl, rfl⟩
  case h_3 => obtain ⟨v, hv, rfl⟩ := one_ok h; cases readByte_ok hv; exact ⟨rfl, rfl⟩
  case h_4 => obtain ⟨v, hv, rfl⟩ := one_ok h; cases readWord_ok hv; exact ⟨rfl, rfl⟩
  case h_5 => cases h; exact ⟨rfl, rfl⟩
  case h_6 =>
    obtain ⟨level, on, mid, hlevel, hon, rfl⟩ := two_ok h
    cases readByte_ok hlevel; cases readOn_ok hon; exact ⟨rfl, rfl⟩
  case h_7 => obtain ⟨sel, hsel, rfl⟩ := one_ok h; cases readSel_ok hsel; exact ⟨rfl, rfl⟩
  case h_8 => obtain ⟨sel, hsel, rfl⟩ := one_ok h; cases readSel_ok hsel; exact ⟨rfl, rfl⟩
  case h_9 =>
    obtain ⟨code, pos, mid, hcode, hpos, rfl⟩ := two_ok h
    cases readByte_ok hcode; cases readByte_ok hpos; exact ⟨rfl, rfl⟩
  case h_10 =>
    obtain ⟨codes, pos, mid, hcodes, hpos, rfl⟩ := two_ok h
    obtain ⟨hfits, rfl⟩ := readList_ok hcodes
    cases readByte_ok hpos; exact ⟨hfits, rfl⟩
  case h_11 =>
    obtain ⟨mask, pos, mid, hmask, hpos, rfl⟩ := two_ok h
    cases readByte_ok hmask; cases readByte_ok hpos; exact ⟨rfl, rfl⟩
  case h_12 =>
    obtain ⟨masks, pos, mid, hmasks, hpos, rfl⟩ := two_ok h
    obtain ⟨hfits, rfl⟩ := readList_ok hmasks
    cases readByte_ok hpos; exact ⟨hfits, rfl⟩
  case h_13 => cases h; exact ⟨rfl, rfl⟩
  case h_14 => cases h; exact ⟨rfl, rfl⟩
  case h_15 =>
    obtain ⟨sel, code, mid, hsel, hcode, rfl⟩ := two_ok h
    cases readSel_ok hsel; cases readByte_ok hcode; exact ⟨rfl, rfl⟩
  case h_16 =>
    obtain ⟨sel, dig, mid, hsel, hdig, rfl⟩ := two_ok h
    cases readSel_ok hsel; cases readFive_ok hdig; exact ⟨rfl, rfl⟩
  case h_17 => obtain ⟨raw, hraw, rfl⟩ := one_ok h; cases readFive_ok hraw; exact ⟨rfl, rfl⟩
  case h_18 => cases h

/-- A wire byte that decodes is the one the encoder writes. -/
theorem encode_of_decodeWire {bs : List Byte} {i : Instr} (h : decodeWire bs = .ok (i, [])) :
    i.wellFormed = true ∧ encode i = ⟨.wireCmd, bs⟩ := by
  cases bs with
  | nil => cases h
  | cons b rest =>
    simp only [decodeWire] at h
    split at h
    · next hclass =>
      cases h
      exact ⟨rfl, congrArg (fun b => Request.mk .wireCmd [b]) (displayControlByte_setWidth hclass)⟩
    · rw [show b = BitVec.ofNat 8 b.toNat by simp]
      generalize b.toNat = n at h ⊢
      split at h <;> cases h <;> exact ⟨rfl, rfl⟩

/-- Settles O7: on either interface the bytes that decode are the encoder's. -/
theorem decodeThenEncode : Obligations.DecodeThenEncode := by
  unfold Obligations.DecodeThenEncode
  rintro ⟨port, bs⟩ i hdecode
  have hat := decodeRequest_ok.1 hdecode
  cases port with
  | wireCmd => exact encode_of_decodeWire hat
  | hostOp =>
    cases bs with
    | nil => cases hat
    | cons op operands =>
      simp only [decodeAt, decodeOp] at hat
      split at hat
      · exact encode_of_decodeOperands hat
      · cases hat

/-! ### What the decoder refuses -/

theorem decodeRequest_of_error {r : Request} {e : DecodeError} (h : decodeAt r.port r.bytes = .error e) :
    decodeRequest r = .error e := by
  simp [decodeRequest, h]

/-- Bytes left over after an operation are a tuple of the wrong shape (30_encoding R74). -/
theorem decodeRequest_of_rest {r : Request} {i : Instr} {rest : List Byte}
    (h : decodeAt r.port r.bytes = .ok (i, rest)) (hrest : rest ≠ []) :
    decodeRequest r = .error .wrongShape := by
  cases rest with
  | nil => exact absurd rfl hrest
  | cons b rest => simp [decodeRequest, h]

theorem readSel_of_bad {b : Byte} (h0 : b ≠ 0) (h1 : b ≠ 1) (rest : List Byte) :
    readSel (b :: rest) = .error (.badSel b) :=
  (if_neg h0).trans (if_neg h1)

theorem readOn_of_bad {b : Byte} (h0 : b ≠ 0) (h1 : b ≠ 1) (rest : List Byte) :
    readOn (b :: rest) = .error (.badOn b) :=
  (if_neg h0).trans (if_neg h1)

/-- A tuple of five is refused only as a wrong shape. -/
theorem readFive_error {bs : List Byte} {e : DecodeError} (h : readFive bs = .error e) : e = .wrongShape := by
  unfold readFive at h
  split at h <;> cases h
  rfl

/-- A request that ends in a tuple of five has the wrong shape with any other number of bytes there. -/
theorem decodeRequest_of_length_ne_five {r : Request} {make : Five Byte → Instr} {bs : List Byte}
    (hdecode : decodeAt r.port r.bytes = one readFive make bs) (hlen : bs.length ≠ 5) :
    decodeRequest r = .error .wrongShape := by
  cases hread : readFive bs with
  | error e =>
    obtain rfl := readFive_error hread
    exact decodeRequest_of_error (hdecode.trans (one_of_error hread make))
  | ok p =>
    obtain ⟨v, rest⟩ := p
    refine decodeRequest_of_rest (hdecode.trans (one_of_ok hread make)) ?_
    rintro rfl
    exact hlen (by rw [readFive_ok hread]; rfl)

/-- Settles O9: each operand's reader refuses its wrong values by name, and no encoding is a proper part of
another. -/
theorem wrongShapesAreRefused : Obligations.WrongShapesAreRefused := by
  unfold Obligations.WrongShapesAreRefused
  refine ⟨fun op b rest hop h0 h1 => ?_, fun level b rest h0 h1 => ?_, fun sel masks hlen => ?_,
    fun raw hlen => ?_, fun i k hwf hpos hk => ?_, fun i b rest hwf => ?_⟩
  · have hsel := readSel_of_bad h0 h1 rest
    simp only [List.mem_cons, List.not_mem_nil, or_false] at hop
    apply decodeRequest_of_error
    obtain rfl | rfl | rfl | rfl := hop
    · exact one_of_error hsel .setfont
    · exact one_of_error hsel .setfilter
    · exact two_of_error hsel .font
    · exact two_of_error hsel .remap
  · have hon := one_of_error (readOn_of_bad h0 h1 rest) (.setbright level)
    exact decodeRequest_of_error ((two_of_ok (readByte_cons level _) .setbright).trans hon)
  · exact decodeRequest_of_length_ne_five (two_of_ok (readSel_selByte sel masks) .remap) hlen
  · exact decodeRequest_of_length_ne_five (make := .keydecode) rfl hlen
  · exact decodeRequest_of_error (decodeAt_encode_take hwf hpos hk)
  · exact decodeRequest_of_rest (decodeAt_encode hwf (b :: rest)) (List.cons_ne_nil b rest)

/-- Settles O8: `decodeOperands` has no row for any of the fifteen values. -/
theorem reservedOpsAreRefused : Obligations.ReservedOpsAreRefused := by
  unfold Obligations.ReservedOpsAreRefused
  intro op hop operands
  apply decodeRequest_of_error
  fin_cases hop <;> rfl

/-! ### Listings -/

/-- The listing of host operations one after another decodes to them (30_encoding R71). -/
theorem decodeListing_encode {is : List Instr} (h : ∀ i ∈ is, i.wellFormed = true ∧ (encode i).port = .hostOp)
    {fuel : Nat} (hfuel : is.length ≤ fuel) :
    decodeListing fuel (is.flatMap fun i => (encode i).bytes) = .ok is := by
  induction is generalizing fuel with
  | nil => cases fuel <;> rfl
  | cons i is ih =>
    obtain ⟨fuel, rfl⟩ : ∃ n, fuel = n + 1 := ⟨fuel - 1, by simp at hfuel; omega⟩
    obtain ⟨hwf, hport⟩ := h i List.mem_cons_self
    have hhead := decodeAt_encode hwf (is.flatMap fun i => (encode i).bytes)
    have htail := ih (fun j hj => h j (List.mem_cons_of_mem i hj)) (Nat.le_of_succ_le_succ hfuel)
    obtain ⟨first, operands, hbytes, -⟩ := encode_readsExactly hwf
    rw [hport, hbytes] at hhead
    simp only [decodeAt, List.cons_append] at hhead
    simp [decodeListing, hbytes, hhead, htail]

/-- Settles O5: each listing and each word is what the encoder writes for its operations. -/
theorem listedWordsDecode : Obligations.ListedWordsDecode := by
  unfold Obligations.ListedWordsDecode
  refine ⟨?_, ?_, ?_, ?_, ?_, ?_, ?_⟩
  · exact decodeListing_encode (is := [.setbright 3 true, .clear]) (by decide) (by decide)
  · exact decodeListing_encode (is := [.setbright 7 false, .digit 0 0, .digits [1, 2] 4, .clear])
      (by decide) (by decide)
  · exact decodeListing_encode
      (is := [.setbright 0 true, .seg 0x20 0, .setfilter .inverted, .seg 0x00 0, .seg 0x04 3])
      (by decide) (by decide)
  · exact encodeThenDecode (.wr16 0x0386) rfl
  · exact encodeThenDecode (.keydecode ⟨0x01, 0x08, 0x09, 0x00, 0x02⟩) rfl
  · exact encodeThenDecode (.font .normal 16) rfl
  · exact encodeThenDecode (.displayControl 0xB) rfl

end Sys2Proof
end

section
/-! PROOFS. The wire commands run as WR8 of their byte (30_encoding R80 to R84), and the pseudo-instructions
expand (R91). -/

namespace Sys2Proof.Machine

/-- WR8 inside a transaction, as one state (40_transport R104). -/
theorem exec_wr8_of_stb {s : State} (hready : s.Ready) (hstb : s.stb = false) (v : Byte) :
    exec (.wr8 v) s = .next
      { s with clk := true, dio := .known (v.getLsbD 7), pc := s.pc + 1, trace := s.trace ++ writeEvents v } := by
  rw [exec_of_check (i := .wr8 v) hready (State.checkInside_eq_none.2 hstb)]
  exact congrArg (fun t : State => Host.Outcome.next t.advance) (s.wr8Body_eq v)

/-- The display-control byte is a sum as well as an `or`: its halves do not meet (30_encoding R83). -/
theorem displayControlByte_eq_add (c : BitVec 4) : displayControlByte c = 0x80 + c.setWidth 8 := by
  apply BitVec.eq_of_toNat_eq
  have hc := c.isLt
  rw [displayControlByte_toNat, BitVec.toNat_add, BitVec.toNat_setWidth,
    show (0x80 : Byte).toNat = 128 from rfl]
  omega

/-- Settles O29: each wire command is sent as WR8 sends its byte. -/
theorem wireCommandsAreWr8OfTheirByte : Obligations.WireCommandsAreWr8OfTheirByte := by
  unfold Obligations.WireCommandsAreWr8OfTheirByte
  intro c ib hib s
  have hwr8 : exec ib.1 s = exec (.wr8 ib.2) s := by
    rw [← displayControlByte_eq_add] at hib
    fin_cases hib <;> rfl  -- each command's meaning is `sendCommand` of its byte, which is WR8's
  exact ⟨hwr8, fun hready hstb => hwr8.trans (exec_wr8_of_stb hready hstb ib.2)⟩

/-- A byte's number is an operand of its width. -/
theorem asmNum_toNat {width : Nat} (b : BitVec width) : asmNum width b.toNat = some b := by
  simp [asmNum, b.isLt]

/-- Settles O10: a byte's number reads as the byte, and the line's word expands by its definition. -/
theorem pseudoInstructionsExpand : Obligations.PseudoInstructionsExpand := by
  unfold Obligations.PseudoInstructionsExpand
  intro b
  have hb := asmNum_toNat b
  exact ⟨congrArg (Option.map Instr.cmd) hb, rfl, congrArg (Option.map Instr.blank) hb⟩

end Sys2Proof.Machine
end

section
/-! PROOFS. The bit-serial transport (40_transport): what each operation does inside and outside a
transaction, and when the data line may be driven or sampled (R115, R116). -/

namespace Sys2Proof.Machine

/-! ### The transport operations -/

/-- An operation whose checks pass leaves its body's state, with `pc` advanced (10_state R36). -/
theorem exec_of_bodyOf_eq {i : Instr} {s u : State} (hready : s.Ready) (hcheck : checkOf i s = none)
    (hbody : bodyOf i s = u) : exec i s = .next u.advance := by
  rw [exec_of_check hready hcheck, hbody]

/-- An operation that needs an open transaction faults where none is open (40_transport R100). -/
theorem exec_faults_of_stb_high {i : Instr} {s : State} (hready : s.Ready)
    (hcheck : checkOf i s = s.checkInside) (hstb : s.stb = true) : exec i s = .next (s.faulted 5) :=
  exec_of_fault (c := .frame) hready (hcheck.trans (State.checkInside_of_stb hstb))

/-- An operation that opens a transaction faults where one is open (40_transport R100). -/
theorem exec_faults_of_stb_low {i : Instr} {s : State} (hready : s.Ready)
    (hcheck : checkOf i s = s.checkOutside) (hstb : s.stb = false) : exec i s = .next (s.faulted 5) :=
  exec_of_fault (c := .frame) hready (hcheck.trans (State.checkOutside_of_stb hstb))

/-- Settles O22: BEGIN's check wants the strobe high, and its body is one drive and one wait. -/
theorem beginOpensTransaction : Obligations.BeginOpensTransaction := by
  unfold Obligations.BeginOpensTransaction
  refine ⟨encodeThenDecode .beginTxn rfl, fun s hready => ⟨fun hstb => ?_, fun hstb => ?_⟩⟩
  · exact exec_of_bodyOf_eq (i := .beginTxn) hready (State.checkOutside_eq_none.2 hstb) s.beginBody_eq
  · exact exec_faults_of_stb_low hready rfl hstb

/-- Settles O23: END's check wants the strobe low, and its body is one drive and one wait. -/
theorem endClosesTransaction : Obligations.EndClosesTransaction := by
  unfold Obligations.EndClosesTransaction
  refine ⟨encodeThenDecode .endTxn rfl, fun s hready => ⟨fun hstb => ?_, fun hstb => ?_⟩⟩
  · exact exec_of_bodyOf_eq (i := .endTxn) hready (State.checkInside_eq_none.2 hstb) s.endBody_eq
  · exact exec_faults_of_stb_high hready rfl hstb

/-- Settles O24: WR8's body writes the slots of the byte's bits, the last of which stays on DIO. -/
theorem wr8SendsBitsInOrder : Obligations.Wr8SendsBitsInOrder := by
  unfold Obligations.Wr8SendsBitsInOrder
  refine ⟨fun v8 => encodeThenDecode (.wr8 v8) rfl, fun v8 s hready => ⟨fun hstb => ?_, fun hstb => ?_⟩⟩
  · exact exec_wr8_of_stb hready hstb v8
  · exact exec_faults_of_stb_high hready rfl hstb

/-- Settles O25: WR16's body writes the slots of the word's bits and settles once, after the last. -/
theorem wr16SendsBitsInOrder : Obligations.Wr16SendsBitsInOrder := by
  unfold Obligations.Wr16SendsBitsInOrder
  refine ⟨fun lo hi => rfl, fun v16 s hready => ⟨fun hstb => ?_, fun hstb => ?_⟩⟩
  · exact exec_of_bodyOf_eq (i := .wr16 v16) hready (State.checkInside_eq_none.2 hstb) (s.wr16Body_eq v16)
  · exact exec_faults_of_stb_high hready rfl hstb

/-- RD8's body, its result given, as one state (40_transport R112). -/
theorem bodyOf_rd8_eq (s : State) :
    bodyOf .rd8 s =
      (s.afterRead 8 (readEvents s.sampleAt)).giveResult (.byte (byteOfSamples s.sampleAt)) :=
  congrArg (fun read : Byte × State => read.2.giveResult (.byte read.1)) s.rd8Body_eq

/-- Settles O26: RD8's body takes the next eight samples and answers the sum of them at their places. -/
theorem rd8AssemblesSamples : Obligations.Rd8AssemblesSamples := by
  unfold Obligations.Rd8AssemblesSamples
  refine ⟨encodeThenDecode .rd8 rfl, fun s hready => ⟨fun hstb => ?_, fun hstb => ?_⟩⟩
  · exact exec_of_bodyOf_eq (i := .rd8) hready (State.checkInside_eq_none.2 hstb) (bodyOf_rd8_eq s)
  · exact exec_faults_of_stb_high hready rfl hstb

/-! ### The data line is driven and sampled while the clock is low -/

theorem dataOnlyWhileLow_append {clk : Level} {xs ys : List Event} (hxs : dataOnlyWhileLow clk xs = true)
    (hys : ∀ lv, dataOnlyWhileLow lv ys = true) : dataOnlyWhileLow clk (xs ++ ys) = true := by
  fun_induction dataOnlyWhileLow clk xs with
  | case1 clk => exact hys clk
  | case2 clk lv evs ih => exact ih hxs
  | case3 clk lv evs ih =>
    obtain ⟨hlow, hevs⟩ := Bool.and_eq_true_iff.1 hxs
    exact Bool.and_eq_true_iff.2 ⟨hlow, ih hevs⟩
  | case4 clk e evs hclk hdio ih => simpa [dataOnlyWhileLow] using ih hxs

theorem sampledOnlyWhileLow_append {clk : Level} {dir : Dir} {xs ys : List Event}
    (hxs : sampledOnlyWhileLow clk dir xs = true) (hys : ∀ lv m, sampledOnlyWhileLow lv m ys = true) :
    sampledOnlyWhileLow clk dir (xs ++ ys) = true := by
  fun_induction sampledOnlyWhileLow clk dir xs with
  | case1 clk dir => exact hys clk dir
  | case2 clk dir lv evs ih => exact ih hxs
  | case3 clk dir m evs ih => exact ih hxs
  | case4 clk dir b evs ih =>
    obtain ⟨hlow, hevs⟩ := Bool.and_eq_true_iff.1 hxs
    exact Bool.and_eq_true_iff.2 ⟨hlow, ih hevs⟩
  | case5 clk dir e evs hclk hmode hsample ih => simpa [sampledOnlyWhileLow] using ih hxs

/-- Events that keep R115 and R116 whatever the levels they start from, as every operation's do: each
slot begins by lowering the clock, each read by turning the line round. -/
def KeepsDataLineRules (evs : List Event) : Prop :=
  ∀ clk dir, dataOnlyWhileLow clk evs = true ∧ sampledOnlyWhileLow clk dir evs = true

namespace KeepsDataLineRules

theorem nil : KeepsDataLineRules [] := fun _ _ => ⟨rfl, rfl⟩

theorem append {xs ys : List Event} (hxs : KeepsDataLineRules xs) (hys : KeepsDataLineRules ys) :
    KeepsDataLineRules (xs ++ ys) := fun clk dir =>
  ⟨dataOnlyWhileLow_append (hxs clk dir).1 fun lv => (hys lv dir).1,
    sampledOnlyWhileLow_append (hxs clk dir).2 fun lv m => (hys lv m).2⟩

theorem flatMap {α : Type} {f : α → List Event} (hf : ∀ a, KeepsDataLineRules (f a)) (l : List α) :
    KeepsDataLineRules (l.flatMap f) := by
  induction l with
  | nil => exact nil
  | cons a l ih => exact (hf a).append ih

/-! #### The operations' events -/

theorem wait (k : Nat) : KeepsDataLineRules [.wait k] := fun _ _ => ⟨rfl, rfl⟩

theorem beginEvents : KeepsDataLineRules beginEvents := fun _ _ => ⟨rfl, rfl⟩

theorem endEvents : KeepsDataLineRules endEvents := fun _ _ => ⟨rfl, rfl⟩

theorem slotEvents (b : Level) : KeepsDataLineRules (slotEvents b) := fun _ _ => ⟨rfl, rfl⟩

theorem writeEvents {n : Nat} (v : BitVec n) : KeepsDataLineRules (writeEvents v) :=
  (flatMap (fun _ => slotEvents _) _).append (wait 1)

/-- The rules do not look at the levels sampled, so that the eight read slots check by evaluation. -/
theorem readEvents (b : Nat → Level) : KeepsDataLineRules (readEvents b) := fun _ _ => ⟨rfl, rfl⟩

theorem commandEvents (b : Byte) : KeepsDataLineRules (commandEvents b) :=
  (beginEvents.append (writeEvents b)).append endEvents

theorem refreshEvents (m : Seven Word) (c : Byte) : KeepsDataLineRules (refreshEvents m c) := by
  have hmatrix := (beginEvents.append (writeEvents (0xC0 : Byte))).append
    (flatMap (fun w : Word => writeEvents w) m.toList)
  exact (((commandEvents 0x40).append (hmatrix.append endEvents)).append (commandEvents 0x03)).append
    (commandEvents c)

theorem keyReadEvents (b : Nat → Level) : KeepsDataLineRules (keyReadEvents b) :=
  ((beginEvents.append (writeEvents _)).append (flatMap (fun _ => readEvents _) _)).append endEvents

theorem eventsOf (i : Instr) (s : State) : KeepsDataLineRules (eventsOf i s) :=
  match i with
  | .beginTxn => beginEvents
  | .endTxn => endEvents
  | .wr8 _ | .dm6g12s | .dm7g11s | .dataWriteInc | .dataRead | .dataWriteFixed | .displayControl _
  | .addressSet => writeEvents _
  | .wr16 _ => writeEvents _
  | .rd8 => readEvents _
  | .digit _ _ | .digits _ _ | .seg _ _ | .segs _ _ | .clear => refreshEvents _ _
  | .getbuttons => keyReadEvents _
  | .setbright _ _ | .setfont _ | .setfilter _ | .font _ _ | .remap _ _ | .keydecode _ => nil

end KeepsDataLineRules

/-- Settles O19: a halted or faulting operation appends nothing, and a completed one its `eventsOf`, which
keep both rules. -/
theorem dataLineDrivenOnlyWhileClockLow : Obligations.DataLineDrivenOnlyWhileClockLow := by
  unfold Obligations.DataLineDrivenOnlyWhileClockLow
  intro i s t hexec
  obtain ⟨-, rfl⟩ | ⟨-, c, -, rfl⟩ | ⟨-, -, rfl⟩ := exec_cases hexec
  · exact ⟨[], (List.append_nil _).symm, rfl, rfl⟩
  · exact ⟨[], (List.append_nil _).symm, rfl, rfl⟩
  · exact ⟨eventsOf i s, bodyOf_trace i s, KeepsDataLineRules.eventsOf i s s.clk s.dir⟩

end Sys2Proof.Machine
end

section
/-! PROOFS. The remapper's grid words under any table (41_decoder R145, R150 to R154), from the bits that
`gridWord_getLsbD` gives them. -/

namespace Sys2Proof.Machine

variable {tab : RemapTable} {g : Fin 7} {dig : Five Byte}

theorem Five.get_all {α : Type} (x : α) (p : Fin 5) : (Five.all x).get p = x := by
  fin_cases p <;> rfl

@[simp] theorem remapMatrix_get (tab : RemapTable) (dig : Five Byte) (g : Fin 7) :
    (remapMatrix tab dig).get g = gridWord tab dig g :=
  Seven.get_ofFn _ g

/-- A matrix is its seven grid words. -/
theorem remapMatrix_eq_ofFn {f : Fin 7 → Word} (h : ∀ g, gridWord tab dig g = f g) :
    remapMatrix tab dig = Seven.ofFn f :=
  congrArg Seven.ofFn (funext h)

/-- A grid word depends only on the bits its cells test. -/
theorem gridWord_congr {a b : Five Byte}
    (h : ∀ p, (a.get p).getLsbD (tab g p).seg = (b.get p).getLsbD (tab g p).seg) :
    gridWord tab a g = gridWord tab b g := by
  apply BitVec.eq_of_getLsbD_eq
  intro k _
  rw [Bool.eq_iff_iff, gridWord_getLsbD, gridWord_getLsbD]
  simp only [h]

/-- Where no digit but `p` has its tested segment lit, the grid word is the contribution of `p`'s cell. -/
theorem gridWord_of_unlit_others {p : Fin 5}
    (h : ∀ q, q ≠ p → (dig.get q).getLsbD (tab g q).seg = false) :
    gridWord tab dig g = cellBit (tab g p) (dig.get p) := by
  apply BitVec.eq_of_getLsbD_eq
  intro k _
  rw [Bool.eq_iff_iff, gridWord_getLsbD, cellBit_getLsbD, Bool.and_eq_true, decide_eq_true_eq]
  constructor
  · rintro ⟨hk, q, hlit, hline⟩
    obtain rfl : q = p := by
      by_contra hne
      rw [h q hne] at hlit
      cases hlit
    exact ⟨hlit, hk, hline⟩
  · rintro ⟨hlit, hk, hline⟩
    exact ⟨hk, p, hlit, hline⟩

theorem gridWord_of_unlit (h : ∀ p, (dig.get p).getLsbD (tab g p).seg = false) :
    gridWord tab dig g = 0#16 := by
  rw [gridWord_of_unlit_others (p := 0) fun q _ => h q, cellBit, h 0]
  rfl

/-- Settles O43: a cell tests one of bits 0 to 6. -/
theorem remapIgnoresReservedBit : Obligations.RemapIgnoresReservedBit := by
  unfold Obligations.RemapIgnoresReservedBit
  intro tab a b h
  refine remapMatrix_eq_ofFn fun g => gridWord_congr fun p => ?_
  exact h p _ (tab g p).seg.isLt

/-- Settles O46: a bit of the OR's word is set by a digit lit in either buffer. -/
theorem remapDistributesOverOr : Obligations.RemapDistributesOverOr := by
  unfold Obligations.RemapDistributesOverOr
  intro tab a b c g h
  rw [remapMatrix_get, remapMatrix_get, remapMatrix_get]
  apply BitVec.eq_of_getLsbD_eq
  intro k _
  rw [BitVec.getLsbD_or, Bool.eq_iff_iff, Bool.or_eq_true]
  simp only [gridWord_getLsbD, h, BitVec.getLsbD_or, Bool.or_eq_true, or_and_right, exists_or, and_or_left]

/-! ### One lit segment -/

/-- The mask of one segment has that segment's bit alone. -/
theorem segmentMask_getLsbD (seg s : Fin 7) : (1#8 <<< seg.val).getLsbD s = decide (s = seg) := by
  revert seg s
  decide

theorem cellBit_segmentMask (c : Cell) (seg : Fin 7) :
    cellBit c (1#8 <<< seg.val) = if c.seg = seg then segLineBit c.line else 0#16 := by
  simp only [cellBit, segmentMask_getLsbD, decide_eq_true_eq]

/-- The word of a buffer with one segment of one digit lit (41_decoder R154). -/
theorem gridWord_of_one_segment (tab : RemapTable) (seg : Fin 7) (p : Fin 5) (g : Fin 7) :
    gridWord tab ((Five.all 0x00).set p (1#8 <<< seg.val)) g =
      if (tab g p).seg = seg then segLineBit (tab g p).line else 0#16 := by
  rw [gridWord_of_unlit_others (p := p) fun q hq => ?_, Five.get_set, if_pos rfl, cellBit_segmentMask]
  rw [Five.get_set, if_neg hq, Five.get_all]
  exact BitVec.getLsbD_zero

/-- Digit 4's seven cells test seven different segments, and so each segment once (41_decoder R148 N2). -/
theorem RemapTable.NormalRules.symbolSeg_bijective (h : tab.NormalRules) :
    Function.Bijective fun g => (tab g 4).seg :=
  Finite.injective_iff_bijective.1 h.2

/-- Settles O45: the lit digit's cell alone contributes; digit 4 is on SG3, and one of its cells tests the
segment. -/
theorem isolatedSegmentLightsItsCells : Obligations.IsolatedSegmentLightsItsCells := by
  unfold Obligations.IsolatedSegmentLightsItsCells
  intro tab seg
  refine ⟨fun p g => ?_, fun hrules => ?_⟩
  · rw [remapMatrix_get]
    exact gridWord_of_one_segment tab seg p g
  · have hword : ∀ g, gridWord tab ((Five.all 0x00).set 4 (1#8 <<< seg.val)) g =
        if (tab g 4).seg = seg then 0x0004#16 else 0#16 := by
      intro g
      refine (gridWord_of_one_segment tab seg 4 g).trans ?_
      rw [hrules.1 g]
      rfl
    refine (existsUnique_congr fun g => ?_).2 (hrules.symbolSeg_bijective.existsUnique seg)
    rw [remapMatrix_get, hword]
    simp

end Sys2Proof.Machine
end

section
/-! PROOFS. The remap tables (41_decoder R146 to R149): a well-formed table is an arrangement of the five used
lines, which decides the bits its words can have (R152), and the open data builds exactly the tables that
the rules allow. -/

namespace Sys2Proof.Machine

variable {tab tabN tabI : RemapTable}

/-! ### Well-formed tables -/

/-- The digits of a well-formed table share out the five used lines (41_decoder R147). -/
theorem RemapTable.WellFormed.exists_lineOrder (h : tab.WellFormed) :
    ∃ order : Equiv.Perm (Fin 5), ∀ g p, (tab g p).line = usedLine (order p) := by
  obtain ⟨hused, hdistinct, hsame⟩ := h
  choose line hline using fun p => exists_usedLine (hused 0 p)
  have hinj : Function.Injective line := by
    intro p q hpq
    apply hdistinct 0
    rw [← hline p, ← hline q, hpq]
  refine ⟨Equiv.ofBijective line (Finite.injective_iff_bijective.1 hinj), fun g p => ?_⟩
  exact (hsame g 0 p).trans (hline p).symm

theorem usedLine_bounds (k : Fin 5) : 2 ≤ usedLine k ∧ usedLine k ≤ 10 := by
  revert k
  decide

/-- The lines lie within a word, so that line L is bit L - 1 (41_decoder R151). -/
theorem RemapTable.WellFormed.gridWord_getLsbD (h : tab.WellFormed) (dig : Five Byte) (g : Fin 7) (k : Nat) :
    (gridWord tab dig g).getLsbD k = true ↔
      ∃ p, (dig.get p).getLsbD (tab g p).seg = true ∧ k + 1 = (tab g p).line := by
  obtain ⟨order, hline⟩ := h.exists_lineOrder
  have hbit : ∀ p, (k < 16 ∧ k = (tab g p).line - 1) ↔ k + 1 = (tab g p).line := by
    intro p
    have hbounds := usedLine_bounds (order p)
    rw [hline]
    omega
  rw [Machine.gridWord_getLsbD, ← exists_and_left]
  refine exists_congr fun p => ?_
  rw [← hbit, and_left_comm]

/-- The bits of the five used lines (41_decoder R152). -/
theorem usedLine_bit {k : Nat} (hk : k < 16) : (0x0386#16).getLsbD k = true ↔ ∃ j, k + 1 = usedLine j := by
  revert k
  decide

theorem RemapTable.WellFormed.gridWord_of_lit (h : tab.WellFormed) {dig : Five Byte} {g : Fin 7}
    (hlit : ∀ p, (dig.get p).getLsbD (tab g p).seg = true) : gridWord tab dig g = 0x0386#16 := by
  obtain ⟨order, hline⟩ := h.exists_lineOrder
  apply BitVec.eq_of_getLsbD_eq
  intro k hk
  rw [Bool.eq_iff_iff, h.gridWord_getLsbD, usedLine_bit hk]
  simp only [hlit, hline, true_and]
  exact order.exists_congr_right (q := fun j => k + 1 = usedLine j)

/-- Settles O44: a word's bits are used lines; with every segment lit all five of them, with none no bit. -/
theorem remapUsesFiveLines : Obligations.RemapUsesFiveLines := by
  unfold Obligations.RemapUsesFiveLines
  intro tab h
  refine ⟨fun dig g k hk => ?_, remapMatrix_eq_ofFn fun g => ?_, fun dig hdig => ?_⟩
  · rw [remapMatrix_get, Bool.eq_false_iff, Ne, h.gridWord_getLsbD]
    rintro ⟨p, -, hline⟩
    have hused := h.1 g p
    rw [← hline] at hused
    simp only [List.mem_cons, List.not_mem_nil, or_false] at hk hused
    omega
  · have hlit : ∀ s : Fin 7, (0xFF : Byte).getLsbD s = true := by decide
    refine h.gridWord_of_lit fun p => ?_
    rw [Five.get_all]
    exact hlit _
  · have hunlit : ∀ s : Fin 7, (0x00#8).getLsbD s = false ∧ (0x80#8).getLsbD s = false := by decide
    refine remapMatrix_eq_ofFn fun g => gridWord_of_unlit fun p => ?_
    obtain hp | hp := hdig p
    · rw [hp]; exact (hunlit _).1
    · rw [hp]; exact (hunlit _).2

/-! ### The tables that the open data builds obey the rules -/

variable (d : RemapData)

theorem tableN_wellFormed : (tableN d).WellFormed :=
  ⟨fun _ _ => usedLine_mem _, fun _ _ _ h => lineIndexN_injective d (usedLine_injective h), fun _ _ _ => rfl⟩

theorem tableI_wellFormed : (tableI d).WellFormed :=
  ⟨fun _ _ => usedLine_mem _, fun _ _ _ h => lineIndexI_injective d (usedLine_injective h), fun _ _ _ => rfl⟩

theorem tableN_normalRules : (tableN d).NormalRules :=
  ⟨fun _ => rfl, fun _ _ h => d.symbolSeg.injective h⟩

theorem testsF_iff (g : Fin 7) : testsF d g = true ↔ (tableN d g 0).seg = Segment.F.index := beq_iff_eq

theorem tables_invertedRule : InvertedRule (tableN d) (tableI d) := by
  intro g hF
  have htests : testsF d g = true := (testsF_iff d g).2 hF
  refine ⟨?_, ?_⟩
  · exact if_pos ⟨rfl, htests⟩
  · exact congrArg usedLine (lineIndexI_three ((anyTestsF_iff d).2 ⟨g, htests⟩))

theorem remapTable_wellFormed (sel : Sel) : (remapTable sel).WellFormed :=
  match sel with
  | .normal => tableN_wellFormed _
  | .inverted => tableI_wellFormed _

/-! ### The rules' tables are built from open data -/

variable {d}

theorem exists_outerLine {k : Fin 5} (h : k ≠ 1) : ∃ j, outerLine j = k := by
  revert k
  decide

theorem lineIndexN_castSucc (d) (p : Fin 4) :
    lineIndexN d p.castSucc = outerLine (d.lineOrderN p) := by
  fin_cases p <;> rfl

/-- With digit 4 on SG3, digits 0 to 3 share out the other four used lines (41_decoder R148 N1). -/
theorem exists_outerOrder {order : Equiv.Perm (Fin 5)} (h : order 4 = 1) :
    ∃ outer : Equiv.Perm (Fin 4), ∀ p, outerLine (outer p) = order p.castSucc := by
  have hne : ∀ p : Fin 4, order p.castSucc ≠ 1 := by
    intro p hp
    exact (Fin.castSucc_lt_last p).ne (order.injective (hp.trans h.symm))
  choose outer houter using fun p => exists_outerLine (hne p)
  have hinj : Function.Injective outer := by
    intro p q hpq
    apply Fin.castSucc_injective 4
    apply order.injective
    rw [← houter p, ← houter q, hpq]
  exact ⟨Equiv.ofBijective outer (Finite.injective_iff_bijective.1 hinj), houter⟩

theorem eq_tableN (hline : ∀ g p, (tabN g p).line = usedLine (lineIndexN d p))
    (hsymbol : ∀ g, (tabN g 4).seg = d.symbolSeg g) (hseg : ∀ g p, (tabN g p).seg = d.segN g p) :
    tabN = tableN d := by
  have hsegment : ∀ g p, (tabN g p).seg = segmentN d g p := by
    intro g p
    unfold segmentN
    split
    · next hp => rw [hp, hsymbol]
    · exact hseg g p
  funext g p
  exact congrArg₂ Cell.mk (hsegment g p) (hline g p)

/-- The exchange of `lineIndexI` changes nothing where digit 3 already has digit 0's normal line. -/
theorem lineIndexI_eq_lineOrderI (h : anyTestsF d = true → d.lineOrderI 3 = lineIndexN d 0) (p : Fin 5) :
    lineIndexI d p = d.lineOrderI p := by
  unfold lineIndexI
  split
  · next hany => rw [h hany, Equiv.swap_self, Equiv.refl_apply]
  · rfl

theorem eq_tableI (hline : ∀ g p, (tabI g p).line = usedLine (d.lineOrderI p))
    (hseg : ∀ g p, (tabI g p).seg = d.segI g p) (hrule : InvertedRule (tableN d) tabI) :
    tabI = tableI d := by
  have hthree : anyTestsF d = true → d.lineOrderI 3 = lineIndexN d 0 := by
    intro hany
    obtain ⟨g, htests⟩ := (anyTestsF_iff d).1 hany
    apply usedLine_injective
    rw [← hline g 3, (hrule g ((testsF_iff d g).1 htests)).2]
    rfl
  have hsegment : ∀ g p, (tabI g p).seg = segmentI d g p := by
    intro g p
    unfold segmentI
    split
    · next hp =>
      obtain ⟨rfl, htests⟩ := hp
      exact (hrule g ((testsF_iff d g).1 htests)).1
    · exact hseg g p
  funext g p
  refine congrArg₂ Cell.mk (hsegment g p) ?_
  rw [hline, lineIndexI_eq_lineOrderI hthree]

/-- The open data with every segment read off two tables, given how their digits share out the lines and
digit 4's cells the segments. -/
def remapDataOf (tabN tabI : RemapTable) (outer : Equiv.Perm (Fin 4)) (symbols : Equiv.Perm (Fin 7))
    (orderI : Equiv.Perm (Fin 5)) : RemapData where
  lineOrderN := outer
  symbolSeg := symbols
  segN g p := (tabN g p).seg
  lineOrderI := orderI
  segI g p := (tabI g p).seg

/-- The rules leave the open data's freedom and no more (41_decoder R147 to R149). -/
theorem exists_remapData (hwfN : tabN.WellFormed) (hrules : tabN.NormalRules) (hwfI : tabI.WellFormed)
    (hinverted : InvertedRule tabN tabI) : ∃ d : RemapData, tabN = tableN d ∧ tabI = tableI d := by
  obtain ⟨orderN, hlineN⟩ := hwfN.exists_lineOrder
  obtain ⟨orderI, hlineI⟩ := hwfI.exists_lineOrder
  have hlast : orderN 4 = 1 := usedLine_injective ((hlineN 0 4).symm.trans (hrules.1 0))
  obtain ⟨outer, houter⟩ := exists_outerOrder hlast
  let d := remapDataOf tabN tabI outer (.ofBijective _ hrules.symbolSeg_bijective) orderI
  have hindex : ∀ p, lineIndexN d p = orderN p := by
    intro p
    induction p using Fin.lastCases with
    | last => exact hlast.symm
    | cast p => exact (lineIndexN_castSucc d p).trans (houter p)
  have hN : tabN = tableN d := by
    refine eq_tableN (fun g p => ?_) (fun _ => rfl) (fun _ _ => rfl)
    rw [hindex, hlineN]
  exact ⟨d, hN, eq_tableI hlineI (fun _ _ => rfl) (hN ▸ hinverted)⟩

/-- Settles O42: the tables of any open data obey the rules, and the data of any tables that obey them can be
read off. -/
theorem remapTablesAreExactlyTheAdmissibleOnes : Obligations.RemapTablesAreExactlyTheAdmissibleOnes := by
  unfold Obligations.RemapTablesAreExactlyTheAdmissibleOnes
  intro tabN tabI
  constructor
  · rintro ⟨hwfN, hrules, hwfI, hinverted⟩
    exact exists_remapData hwfN hrules hwfI hinverted
  · rintro ⟨d, rfl, rfl⟩
    exact ⟨tableN_wellFormed d, tableN_normalRules d, tableI_wellFormed d, tables_invertedRule d⟩

end Sys2Proof.Machine
end

section
/-! PROOFS. The pure queries FONT and REMAP of the block's own tables (41_decoder R140 to R145). -/

namespace Sys2Proof.Machine

/-- Settles O41: the block's tables are well-formed, so their grid words have the bits R145 gives. -/
theorem remapAnswersMatrix : Obligations.RemapAnswersMatrix := by
  unfold Obligations.RemapAnswersMatrix
  refine ⟨fun sel a b c d e => encodeThenDecode (.remap sel ⟨a, b, c, d, e⟩) rfl,
    fun sel dig s hready => ?_⟩
  refine ⟨_, exec_of_check (i := .remap sel dig) hready rfl, fun g k => ?_⟩
  rw [remapMatrix_get]
  exact (remapTable_wellFormed sel).gridWord_getLsbD dig g k

/-- Settles O39: FONT's only check is of its code, and its body gives the entry. -/
theorem fontAnswersTableEntry : Obligations.FontAnswersTableEntry := by
  unfold Obligations.FontAnswersTableEntry
  refine ⟨fun sel code => encodeThenDecode (.font sel code) rfl,
    fun sel code s hready => ⟨fun h => ?_, fun h => ?_⟩⟩
  · exact exec_of_check (i := .font sel code) hready (checkCode_eq_none.2 h)
  · exact exec_of_fault (i := .font sel code) (c := .code) hready (checkCode_of_gt h)

/-- An open entry has seven bits, and the two fixed ones do not set bit 7 either (41_decoder R141). -/
theorem fontTable_getLsbD_seven (entry : Nat → BitVec 7) (code : Nat) :
    (fontTable entry code).getLsbD 7 = false := by
  unfold fontTable
  split
  · rfl
  · split
    · rfl
    · simp

/-- Both fonts are a `fontTable` of open entries. -/
theorem fontLookup_eq_fontTable (sel : Sel) :
    ∃ entry, ∀ code, fontLookup sel code = fontTable entry code.toNat := by
  cases sel
  · exact ⟨Config.fontEntryN, fun _ => rfl⟩
  · exact ⟨Config.fontEntryI, fun _ => rfl⟩

/-- Settles O40: both fonts fix codes 0 and 16 and leave seven bits to every other entry. -/
theorem fontEntriesKeepKnownValues : Obligations.FontEntriesKeepKnownValues := by
  unfold Obligations.FontEntriesKeepKnownValues
  intro sel
  obtain ⟨entry, hentry⟩ := fontLookup_eq_fontTable sel
  refine ⟨fun code => ?_, ?_, ?_⟩
  · rw [hentry, fontTable_getLsbD_seven]
  · exact hentry 0
  · exact hentry 16

end Sys2Proof.Machine
end

section
/-! PROOFS. The display operations (42_sequencer R175 to R179): each one's checks in their order, and the
digit buffer it leaves, which one refresh sends (R180). -/

namespace Sys2Proof.Machine

/-! ### What every display operation does -/

section
variable {i : Instr} {s : State}

/-- A refresh of a new digit buffer, as one state (42_sequencer R180, R182). -/
theorem State.refresh_advance_eq_displayed (s : State) (dig : Five Byte) :
    ({ s with dig := dig }.refresh).advance = s.displayed dig := by
  rw [State.refresh_eq]; rfl

/-- A display operation whose checks pass stores its digit buffer and refreshes once. -/
theorem exec_display (hdisplay : isDisplay i = true) (hready : s.Ready) (hcheck : checkOf i s = none) :
    exec i s = .next (s.displayed (digAfter i s)) := by
  rw [exec_of_check hready hcheck, ← State.refresh_advance_eq_displayed]
  cases i with
  | digit | digits | seg | segs | clear => rfl
  | _ => cases hdisplay

/-- A display operation inside a transaction faults, whatever its operands are (42_sequencer R170). -/
theorem exec_display_inside (hdisplay : isDisplay i = true) (hready : s.Ready) (hstb : s.stb = false) :
    exec i s = .next (s.faulted 5) := by
  have hframe := State.checkOutside_of_stb hstb
  refine exec_of_fault (c := .frame) hready ?_
  cases i with
  | clear => exact hframe
  | digit | digits | seg | segs => rw [checkOf, hframe]; rfl
  | _ => cases hdisplay

variable {pos : Byte}

/-- Outside a transaction and with a position in range the checks after these two decide. -/
theorem firstFault_of_pos_le (hstb : s.stb = true) (hpos : pos.toNat ≤ 4) (checks : List (Option FaultCode)) :
    firstFault (s.checkOutside :: checkPos pos :: checks) = firstFault checks := by
  rw [State.checkOutside_eq_none.2 hstb, checkPos_eq_none.2 hpos, firstFault_none, firstFault_none]

/-- Outside a transaction a position out of range is the first fault found (60_exceptions R224). -/
theorem firstFault_of_pos_gt (hstb : s.stb = true) (hpos : pos.toNat > 4) (checks : List (Option FaultCode)) :
    firstFault (s.checkOutside :: checkPos pos :: checks) = some .pos := by
  rw [State.checkOutside_eq_none.2 hstb, checkPos_of_gt hpos, firstFault_none, firstFault_some]

end

/-! ### One position -/

/-- Settles O33: DIGIT's checks in their order, and the glyph in its place. -/
theorem digitStoresGlyphAndRefreshes : Obligations.DigitStoresGlyphAndRefreshes := by
  unfold Obligations.DigitStoresGlyphAndRefreshes
  refine ⟨fun code pos => encodeThenDecode (.digit code pos) rfl, fun code pos s hready =>
    ⟨fun hstb hpos hcode => exec_display (i := .digit code pos) rfl hready ?_,
      exec_display_inside rfl hready,
      fun hstb hpos => exec_of_fault (c := .pos) hready (firstFault_of_pos_gt hstb hpos _),
      fun hstb hpos hcode => exec_of_fault (c := .code) hready ?_⟩⟩
  · rw [checkOf, firstFault_of_pos_le hstb hpos, checkCode_eq_none.2 hcode]; rfl
  · rw [checkOf, firstFault_of_pos_le hstb hpos, checkCode_of_gt hcode]; rfl

/-- Settles O35: SEG's two checks, and the mask in its place as it is. -/
theorem segStoresMaskAndRefreshes : Obligations.SegStoresMaskAndRefreshes := by
  unfold Obligations.SegStoresMaskAndRefreshes
  refine ⟨fun mask pos => encodeThenDecode (.seg mask pos) rfl, fun mask pos s hready =>
    ⟨fun hstb hpos => exec_display (i := .seg mask pos) rfl hready (firstFault_of_pos_le hstb hpos _),
      exec_display_inside rfl hready,
      fun hstb hpos => exec_of_fault (c := .pos) hready (firstFault_of_pos_gt hstb hpos _)⟩⟩

/-! ### A run of positions -/

/-- With a run that fits the buffer the checks after it decide. -/
theorem firstFault_of_len {pos : Byte} {n : Nat} (hlen : pos.toNat + n ≤ 5)
    (checks : List (Option FaultCode)) : firstFault (checkLen pos n :: checks) = firstFault checks := by
  rw [checkLen_eq_none.2 hlen, firstFault_none]

/-- Settles O34: DIGITS' checks in their order, and the run of the codes' glyphs. -/
theorem digitsStoreGlyphsAndRefresh : Obligations.DigitsStoreGlyphsAndRefresh := by
  unfold Obligations.DigitsStoreGlyphsAndRefresh
  refine ⟨fun codes pos hlen => encodeThenDecode (.digits codes pos) (decide_eq_true hlen),
    fun codes pos s hready =>
      ⟨fun hstb hlen hpos hcodes => ⟨_, fun q => ?_, exec_display (i := .digits codes pos) rfl hready ?_⟩,
        exec_display_inside rfl hready,
        fun hstb hpos => exec_of_fault (c := .pos) hready (firstFault_of_pos_gt hstb hpos _),
        fun hstb hpos hlen => exec_of_fault (c := .len) hready ?_,
        fun hstb hpos hlen ⟨c, hmem, hc⟩ => exec_of_fault (c := .code) hready ?_⟩⟩
  · rw [digAfter, writeRun_get, List.getElem?_map]
  · rw [checkOf, firstFault_of_pos_le hstb hpos, firstFault_of_len hlen, checkCodes_eq_none.2 hcodes]; rfl
  · rw [checkOf, firstFault_of_pos_le hstb hpos, checkLen_of_gt hlen]; rfl
  · rw [checkOf, firstFault_of_pos_le hstb hpos, firstFault_of_len hlen, checkCodes_of_mem hmem hc]; rfl

/-- SEGS' checks pass outside a transaction where its run fits the buffer (42_sequencer R178). -/
theorem checkOf_segs {s : State} {masks : List Byte} {pos : Byte} (hstb : s.stb = true)
    (hpos : pos.toNat ≤ 4) (hlen : pos.toNat + masks.length ≤ 5) : checkOf (.segs masks pos) s = none := by
  rw [checkOf, firstFault_of_pos_le hstb hpos, firstFault_of_len hlen]; rfl

/-- Settles O36: SEGS' checks in their order, and the run of the masks. -/
theorem segsStoreMasksAndRefresh : Obligations.SegsStoreMasksAndRefresh := by
  unfold Obligations.SegsStoreMasksAndRefresh
  refine ⟨fun masks pos hlen => encodeThenDecode (.segs masks pos) (decide_eq_true hlen),
    fun masks pos s hready =>
      ⟨fun hstb hpos hlen => ⟨_, writeRun_get s.dig pos.toNat masks,
          exec_display (i := .segs masks pos) rfl hready (checkOf_segs hstb hpos hlen)⟩,
        exec_display_inside rfl hready,
        fun hstb hpos => exec_of_fault (c := .pos) hready (firstFault_of_pos_gt hstb hpos _),
        fun hstb hpos hlen => exec_of_fault (c := .len) hready ?_⟩⟩
  · rw [checkOf, firstFault_of_pos_le hstb hpos, checkLen_of_gt hlen]; rfl

/-! ### CLEAR -/

/-- The blank is dark in both fonts (41_decoder R142). -/
theorem fontLookup_blankCode (sel : Sel) : fontLookup sel blankCode = 0x00 := by
  obtain ⟨entry, hentry⟩ := fontLookup_eq_fontTable sel
  exact hentry blankCode

theorem digAfter_clear (s : State) : digAfter .clear s = Five.all 0x00 := by
  rw [digAfter, fontLookup_blankCode]; rfl

/-- CLEAR outside a transaction refreshes a dark buffer (42_sequencer R179). -/
theorem exec_clear_of_stb {s : State} (hready : s.Ready) (hstb : s.stb = true) :
    exec .clear s = .next (s.displayed (Five.all 0x00)) := by
  rw [← digAfter_clear s]
  exact exec_display rfl hready (State.checkOutside_eq_none.2 hstb)

/-- Settles O37: CLEAR writes the blank of the active font, which is dark in both. -/
theorem clearBlanksAndRefreshes : Obligations.ClearBlanksAndRefreshes := by
  unfold Obligations.ClearBlanksAndRefreshes
  exact ⟨encodeThenDecode .clear rfl, fun s hready =>
    ⟨exec_clear_of_stb hready, exec_display_inside rfl hready⟩⟩

end Sys2Proof.Machine
end

section
/-! PROOFS. The configuration operations (42_sequencer R171 to R173): one register each and no event, and
the refresh that a brightness waits for (R171, 70_reset R259). -/

namespace Sys2Proof.Machine

/-- A level of 0..7 fills the low three bits and `on` the fourth (30_encoding R86). -/
theorem controlValue_eq_ofNat {level : Byte} (hlevel : level.toNat ≤ 7) (on : Bool) :
    controlValue level on = BitVec.ofNat 4 ((if on then 8 else 0) + level.toNat) := by
  have small : ∀ (l : Fin 8) (on : Bool),
      controlValue (BitVec.ofNat 8 l) on = BitVec.ofNat 4 ((if on then 8 else 0) + l) := by decide
  simpa using small ⟨level.toNat, by omega⟩ on

/-- SETBRIGHT with a level in range, as one state (42_sequencer R171). -/
theorem exec_setbright_of_level {level : Byte} {s : State} (hready : s.Ready) (hlevel : level.toNat ≤ 7)
    (on : Bool) : exec (.setbright level on) s = .next
      { s with ctrl := BitVec.ofNat 4 ((if on then 8 else 0) + level.toNat), pc := s.pc + 1 } := by
  rw [← controlValue_eq_ofNat hlevel]
  exact exec_of_check (i := .setbright level on) hready (checkLevel_eq_none.2 hlevel)

/-- Settles O30: SETBRIGHT's only check is of its level, and its body writes `CTRL`. -/
theorem setbrightStoresControlValue : Obligations.SetbrightStoresControlValue := by
  unfold Obligations.SetbrightStoresControlValue
  refine ⟨fun level => ⟨encodeThenDecode (.setbright level false) rfl,
    encodeThenDecode (.setbright level true) rfl⟩, fun level on s hready => ⟨fun h => ?_, fun h => ?_⟩⟩
  · exact exec_setbright_of_level hready h on
  · exact exec_of_fault (i := .setbright level on) (c := .level) hready (checkLevel_of_gt h)

/-- Settles O31: neither operation has a check, and each body writes its one register. -/
theorem selectionsWriteTheirRegister : Obligations.SelectionsWriteTheirRegister := by
  unfold Obligations.SelectionsWriteTheirRegister
  exact ⟨fun sel => ⟨encodeThenDecode (.setfont sel) rfl, encodeThenDecode (.setfilter sel) rfl⟩,
    fun sel _ hready => ⟨exec_of_check (i := .setfont sel) hready rfl,
      exec_of_check (i := .setfilter sel) hready rfl⟩⟩

/-- A dark buffer gives seven zero words under every table (41_decoder R145). -/
theorem remapMatrix_dark (tab : RemapTable) :
    remapMatrix tab (Five.all 0x00) = Seven.ofFn fun _ => 0x0000 :=
  remapMatrix_eq_ofFn fun _ => gridWord_of_unlit fun p => by rw [Five.get_all]; simp

/-- The display-control byte of a small number (30_encoding R83). -/
theorem displayControlByte_ofNat {n : Nat} (h : n < 16) :
    displayControlByte (BitVec.ofNat 4 n) = BitVec.ofNat 8 (0x80 + n) := by
  apply BitVec.eq_of_toNat_eq
  rw [displayControlByte_toNat, BitVec.toNat_ofNat, BitVec.toNat_ofNat]
  omega

/-- Settles O32: SETBRIGHT leaves the trace and the strobe, and CLEAR's refresh sends the `CTRL` it left. -/
theorem brightnessReachesTheNextRefresh : Obligations.BrightnessReachesTheNextRefresh := by
  unfold Obligations.BrightnessReachesTheNextRefresh
  intro level on s hready hstb hlevel
  refine ⟨_, _, exec_setbright_of_level hready hlevel on, exec_clear_of_stb hready hstb, rfl, ?_⟩
  have hbyte := displayControlByte_ofNat (n := (if on then 8 else 0) + level.toNat) (by split <;> omega)
  rw [← Nat.add_assoc] at hbyte
  simp only [State.displayed, remapMatrix_dark, ← hbyte, displayControlByte]

end Sys2Proof.Machine
end

section
/-! PROOFS. KEYDECODE and GETBUTTONS (42_sequencer R190, R191): the bits of the decoded mask, and the key
read as one operation. -/

namespace Sys2Proof.Machine

/-- A result bit is set exactly when it is that of a column's line with a key pressed (42_sequencer R191). -/
theorem keyMask_getLsbD (raw : Five Byte) (n : Nat) :
    (keyMask raw).getLsbD n = true ↔
      ∃ i : Fin 5, KeyLine.K1.pressed (raw.get i) = true ∧ n = 2 * i.val
        ∨ KeyLine.K2.pressed (raw.get i) = true ∧ n = 16 + 2 * i.val := by
  have column (i : Fin 5) (b : Byte) : (keyBits i b).getLsbD n = true ↔
      KeyLine.K1.pressed b = true ∧ n = 2 * i.val ∨ KeyLine.K2.pressed b = true ∧ n = 16 + 2 * i.val := by
    rw [keyBits_getLsbD]; simp
  have columns : (keyMask raw).getLsbD n = true ↔ ∃ i : Fin 5, (keyBits i (raw.get i)).getLsbD n = true := by
    simp only [keyMask, BitVec.getLsbD_or, Bool.or_eq_true]
    constructor
    · rintro ((((h | h) | h) | h) | h)
      exacts [⟨0, h⟩, ⟨1, h⟩, ⟨2, h⟩, ⟨3, h⟩, ⟨4, h⟩]
    · rintro ⟨i, h⟩
      fin_cases i
      exacts [.inl (.inl (.inl (.inl h))), .inl (.inl (.inl (.inr h))), .inl (.inl (.inr h)), .inl (.inr h),
        .inr h]
  simp only [columns, column]

/-- Settles O47: the lines' bits are 2i and 16 + 2i, all different for i in 0..4. -/
theorem keydecodeFollowsBitRule : Obligations.KeydecodeFollowsBitRule := by
  unfold Obligations.KeydecodeFollowsBitRule
  refine ⟨fun a b c d e => encodeThenDecode (.keydecode ⟨a, b, c, d, e⟩) rfl, fun raw s hready =>
    ⟨keyMask raw, exec_of_check (i := .keydecode raw) hready rfl, fun i => ⟨?_, ?_⟩, fun n hn => ?_⟩⟩
  · refine Bool.eq_iff_iff.2 ((keyMask_getLsbD raw _).trans ⟨?_, fun h => ⟨i, .inl ⟨h, rfl⟩⟩⟩)
    rintro ⟨j, ⟨h, hj⟩ | ⟨-, hj⟩⟩
    · rwa [show i = j by omega]
    · omega
  · refine Bool.eq_iff_iff.2 ((keyMask_getLsbD raw _).trans ⟨?_, fun h => ⟨i, .inr ⟨h, rfl⟩⟩⟩)
    rintro ⟨j, ⟨-, hj⟩ | ⟨h, hj⟩⟩
    · omega
    · rwa [show i = j by omega]
  · refine Bool.eq_false_iff.2 fun h => ?_
    obtain ⟨i, ⟨-, hi⟩ | ⟨-, hi⟩⟩ := (keyMask_getLsbD raw n).1 h
    · exact (hn i).1 hi
    · exact (hn i).2 hi

/-- The state after a key read made of n operations, with the results they give (42_sequencer R190). -/
def State.afterKeyRead (s : State) (n : Nat) (rs : List HostResult) : State :=
  { s with
    stb := true
    clk := true
    dio := .unknown
    dir := .out
    pc := s.pc + n
    trace := s.trace ++ keyReadEvents s.sampleAt
    results := s.results ++ rs
    answers := s.answers.drop 40
    draws := s.draws + 40 }

/-- GETBUTTONS outside a transaction is a key read that gives the decoded mask (42_sequencer R190, R191). -/
theorem exec_getbuttons_of_stb {s : State} (hready : s.Ready) (hstb : s.stb = true) :
    exec .getbuttons s = .next (s.afterKeyRead 1 [.keys (keyMask s.rawKeys)]) :=
  exec_of_bodyOf_eq (i := .getbuttons) hready (State.checkOutside_eq_none.2 hstb) s.keyRead_eq

/-- Settles O48: GETBUTTONS' check wants the strobe high, and its body is the key read. -/
theorem getbuttonsReadsFiveBytes : Obligations.GetbuttonsReadsFiveBytes := by
  unfold Obligations.GetbuttonsReadsFiveBytes
  exact ⟨encodeThenDecode .getbuttons rfl, fun s hready =>
    ⟨exec_getbuttons_of_stb hready, exec_faults_of_stb_low hready rfl⟩⟩

end Sys2Proof.Machine
end

section
/-! PROOFS. The sequencer's operations and the host's own framing (42_sequencer R180, R181, R190): a
refresh and a key read leave the machine as the transport operations they stand for do. -/

namespace Sys2Proof.Machine

/-! ### Transactions that the host frames -/

theorem execAll_append {is : List Instr} {s t : State} (h : execAll is s = .next t) (js : List Instr) :
    execAll (is ++ js) s = execAll js t := by
  induction is generalizing s with
  | nil => cases h; rfl
  | cons i is ih =>
    obtain ⟨u, hu⟩ := State.perform_next s (checkOf i s) (bodyOf i)
    have hexec : exec i s = .next u := (exec_eq_perform i s).trans hu
    rw [List.cons_append, execAll_cons hexec]
    exact ih ((execAll_cons hexec is).symm.trans h)

/-- An operation that the host runs inside a transaction: WR8, WR16 or RD8 (40_transport R100). -/
def isTransfer : Instr → Bool
  | .wr8 _ | .wr16 _ | .rd8 => true
  | _ => false

/-- The state after operations in a row, each completed. -/
def afterAll (is : List Instr) (s : State) : State := is.foldl (fun t i => (bodyOf i t).advance) s

theorem checkOf_isTransfer {i : Instr} (h : isTransfer i = true) {s : State} (hstb : s.stb = false) :
    checkOf i s = none := by
  cases i with
  | wr8 | wr16 | rd8 => exact State.checkInside_eq_none.2 hstb
  | _ => cases h

theorem movesStrobe_isTransfer {i : Instr} (h : isTransfer i = true) : movesStrobe i = false := by
  cases i with
  | wr8 | wr16 | rd8 => rfl
  | _ => cases h

theorem State.Ready.advance_bodyOf {s : State} (h : s.Ready) (i : Instr) : (bodyOf i s).advance.Ready := by
  obtain ⟨hfault, -, -, -⟩ := bodyOf_frame i s
  exact (congrArg FaultReg.fv hfault).trans h

theorem advance_bodyOf_stb {i : Instr} (h : movesStrobe i = false) (s : State) :
    (bodyOf i s).advance.stb = s.stb :=
  (congrArg Lines.stb (bodyOf_lines s i)).trans (Lines.afterOp_stb h)

/-- Transfers inside a transaction all complete and stay inside it. -/
theorem execAll_transfers {is : List Instr} {s : State} (his : is.all isTransfer = true) (hready : s.Ready)
    (hstb : s.stb = false) :
    execAll is s = .next (afterAll is s) ∧ (afterAll is s).Ready ∧ (afterAll is s).stb = false := by
  induction is generalizing s with
  | nil => exact ⟨rfl, hready, hstb⟩
  | cons i is ih =>
    obtain ⟨hi, his⟩ := Bool.and_eq_true_iff.1 (List.all_cons.symm.trans his)
    rw [execAll_cons (exec_of_check hready (checkOf_isTransfer hi hstb))]
    exact ih his (hready.advance_bodyOf i) ((advance_bodyOf_stb (movesStrobe_isTransfer hi) s).trans hstb)

/-- BEGIN, transfers and END complete outside a transaction (40_transport R101, R102). -/
theorem execAll_transaction {is : List Instr} {s : State} (his : is.all isTransfer = true)
    (hready : s.Ready) (hstb : s.stb = true) :
    execAll (.beginTxn :: is ++ [.endTxn]) s =
      .next (afterAll is s.beginBody.advance).endBody.advance := by
  have hbegin := exec_of_check (i := .beginTxn) hready (State.checkOutside_eq_none.2 hstb)
  obtain ⟨hinside, huready, hustb⟩ := execAll_transfers his (hready.advance_bodyOf .beginTxn) rfl
  have hend := exec_of_check (i := .endTxn) huready (State.checkInside_eq_none.2 hustb)
  exact (execAll_cons hbegin _).trans ((execAll_append hinside _).trans (execAll_cons hend []))

/-! ### The transactions of a refresh -/

/-- The state after completed transactions of n operations, with their events and the level they leave on
the data line. -/
def State.transacted (s : State) (n : Nat) (lv : Level) (evs : List Event) : State :=
  { s with stb := true, clk := true, dio := .known lv, pc := s.pc + n, trace := s.trace ++ evs }

theorem State.transacted_transacted (s : State) (n m : Nat) (lv lv' : Level) (evs evs' : List Event) :
    (s.transacted n lv evs).transacted m lv' evs' = s.transacted (n + m) lv' (evs ++ evs') := by
  simp [State.transacted, Nat.add_assoc]

/-- A transaction of one command byte (42_sequencer R180). -/
theorem execAll_cmd {s : State} (hready : s.Ready) (hstb : s.stb = true) (b : Byte) :
    execAll (Instr.cmd b) s = .next (s.transacted 3 (b.getLsbD 7) (commandEvents b)) := by
  refine (execAll_transaction (is := [.wr8 b]) rfl hready hstb).trans (congrArg _ ?_)
  simp [afterAll, bodyOf, State.beginBody_eq, State.wr8Body_eq, State.endBody_eq, State.advance,
    State.transacted, commandEvents]

/-- The operations of the address and the matrix's seven words (42_sequencer R180, R181). -/
def matrixOps (m : Seven Word) : List Instr := .beginTxn :: (.wr8 0xC0 :: m.toList.map .wr16) ++ [.endTxn]

/-- The events of the address and the matrix's seven words (42_sequencer R180, R181). -/
def matrixEvents (m : Seven Word) : List Event :=
  beginEvents ++ writeEvents (0xC0 : Byte) ++ m.toList.flatMap (fun w => writeEvents w) ++ endEvents

theorem execAll_matrixOps {s : State} (hready : s.Ready) (hstb : s.stb = true) (m : Seven Word) :
    execAll (matrixOps m) s = .next (s.transacted 10 (m.m6.getLsbD 15) (matrixEvents m)) := by
  refine (execAll_transaction (is := .wr8 0xC0 :: m.toList.map .wr16) rfl hready hstb).trans
    (congrArg _ ?_)
  simp [afterAll, bodyOf, Seven.toList, State.beginBody_eq, State.wr8Body_eq, State.wr16Body_eq,
    State.endBody_eq, State.advance, State.transacted, matrixEvents]

/-- The four transactions, one after another (42_sequencer R180). -/
theorem execAll_refresh {s : State} (hready : s.Ready) (hstb : s.stb = true) (m : Seven Word) (c : Byte) :
    execAll (Instr.cmd 0x40 ++ (matrixOps m ++ (Instr.cmd 0x03 ++ Instr.cmd c))) s =
      .next (s.transacted 19 (c.getLsbD 7) (refreshEvents m c)) := by
  have hready' {n lv evs} : (s.transacted n lv evs).Ready := hready
  rw [execAll_append (execAll_cmd hready hstb 0x40), execAll_append (execAll_matrixOps hready' rfl m),
    State.transacted_transacted, execAll_append (execAll_cmd hready' rfl 0x03),
    State.transacted_transacted, execAll_cmd hready' rfl c, State.transacted_transacted]
  simp only [refreshEvents, matrixEvents, List.append_assoc]

/-- Settles O38: SEGS of no mask stores nothing, and its refresh is the events of the four transactions. -/
theorem refreshEqualsHostFramedTransactions : Obligations.RefreshEqualsHostFramedTransactions := by
  unfold Obligations.RefreshEqualsHostFramedTransactions
  intro s hready hstb
  refine ⟨_, exec_display (i := .segs [] 0) rfl hready (checkOf_segs hstb (by decide) (by decide)),
    (execAll_refresh hready hstb _ _).trans ?_⟩
  have htop : BitVec.getLsbD (0x80 ||| s.ctrl.setWidth 8 : Byte) 7 = true := by simp
  rw [htop]; rfl

/-! ### The key read -/

/-- The state after n RD8s in a row, with a result for each (40_transport R112). -/
def State.afterReads (s : State) (n : Nat) : State :=
  { s.afterRead (8 * n) ((List.range n).flatMap fun i => readEvents fun k => s.sampleAt (8 * i + k)) with
    pc := s.pc + n
    results := s.results ++ (List.range n).map fun i => .byte (s.keyByteAt i) }

/-- The next RD8 takes the next eight samples. -/
theorem State.afterReads_rd8 (s : State) (n : Nat) :
    (bodyOf .rd8 (s.afterReads n)).advance = s.afterReads (n + 1) := by
  have hsample : (s.afterReads n).sampleAt = fun k => s.sampleAt (8 * n + k) :=
    funext fun k => State.sampleAt_congr rfl rfl k
  rw [bodyOf_rd8_eq, hsample]
  simp [State.afterReads, State.afterRead, State.advance, State.giveResult, State.keyByteAt, List.range_succ,
    Nat.mul_add, Nat.add_assoc]

theorem afterAll_rd8 (s : State) (n : Nat) :
    afterAll (List.replicate (n + 1) .rd8) s = s.afterReads (n + 1) := by
  induction n with
  | zero =>
    show (bodyOf .rd8 s).advance = _
    rw [bodyOf_rd8_eq]
    simp [State.afterReads, State.afterRead, State.advance, State.giveResult, State.keyByteAt]
  | succ n ih =>
    rw [List.replicate_succ', afterAll, List.foldl_append, ← State.afterReads_rd8, ← ih]
    rfl

/-- BEGIN, the read command, five RD8s and END are a key read that gives the raw bytes (42_sequencer R190). -/
theorem execAll_keyRead {s : State} (hready : s.Ready) (hstb : s.stb = true) :
    execAll [.beginTxn, .wr8 0x42, .rd8, .rd8, .rd8, .rd8, .rd8, .endTxn] s =
      .next (s.afterKeyRead 8 (s.rawKeys.toList.map .byte)) := by
  refine (execAll_transaction (is := .wr8 0x42 :: List.replicate 5 .rd8) rfl hready hstb).trans
    (congrArg _ ?_)
  have hcmd : (bodyOf (.wr8 0x42) s.beginBody.advance).advance =
      { s with
        stb := false
        clk := true
        dio := .known false
        pc := s.pc + 2
        trace := s.trace ++ (beginEvents ++ writeEvents (0x42 : Byte)) } := by
    simp [bodyOf, State.beginBody_eq, State.wr8Body_eq, State.advance]
  rw [afterAll, List.foldl_cons, hcmd, ← afterAll, afterAll_rd8, State.endBody_eq]
  simp only [State.afterKeyRead, keyReadEvents, State.afterReads, State.afterRead, State.advance,
    List.append_assoc]
  rfl

/-- Settles O49: the five RD8s take the samples that the key read takes, and answer its raw bytes. -/
theorem getbuttonsEqualsHostFramedRead : Obligations.GetbuttonsEqualsHostFramedRead := by
  unfold Obligations.GetbuttonsEqualsHostFramedRead
  intro s hready hstb
  exact ⟨_, _, s.rawKeys, exec_getbuttons_of_stb hready hstb, execAll_keyRead hready hstb, rfl, rfl⟩

end Sys2Proof.Machine
end

section
/-! PROOFS. Fault entry and the halt (60_exceptions R222, R223): a ready machine records a fault or
completes the operation, a halted one stays as it is. -/

namespace Sys2Proof.Machine

variable {s t : State}

/-! ### Fault entry -/

/-- A completed operation leaves `FAULT` (60_exceptions R222). -/
theorem advance_bodyOf_fault (i : Instr) (s : State) : (bodyOf i s).advance.fault = s.fault := by
  obtain ⟨hfault, -, -, -⟩ := bodyOf_frame i s
  exact hfault

/-- A ready machine does one of two things: it records the fault of the first failed check and changes
nothing else, or it completes the operation. -/
theorem exec_cases_of_ready (hready : s.Ready) {i : Instr} (hexec : exec i s = .next t) :
    (∃ c, checkOf i s = some c ∧ t = s.faulted c.bits) ∨
    (checkOf i s = none ∧ t = (bodyOf i s).advance) := by
  obtain ⟨hhalted, -⟩ | ⟨-, hfaults⟩ | ⟨-, hcompletes⟩ := exec_cases hexec
  · exact absurd (hhalted.symm.trans hready) (by decide)
  · exact .inl hfaults
  · exact .inr hcompletes

/-! ### The halt -/

theorem step_of_halted (h : s.fault.fv = true) : step s = .next s :=
  step_of_nothing (State.presented_of_halted h)

/-! ### The obligations -/

/-- Settles O16: a failed check writes `FAULT` alone, a completed body does not write it, a halted step
leaves the state, and reset writes `FAULT` to 0. -/
theorem faultEntryIsPrecise : Obligations.FaultEntryIsPrecise := by
  unfold Obligations.FaultEntryIsPrecise
  refine ⟨fun i s t hready hexec hfv => ?_, fun i s t hready hexec hfv => ?_, fun s t hfv hstep => ?_,
    State.applyReset_fault⟩
  · obtain ⟨c, -, ht⟩ | ⟨-, rfl⟩ := exec_cases_of_ready hready hexec
    · exact ⟨c, ht⟩
    · rw [advance_bodyOf_fault, show s.fault.fv = false from hready] at hfv
      cases hfv
  · obtain ⟨c, -, rfl⟩ | ⟨-, rfl⟩ := exec_cases_of_ready hready hexec
    · cases hfv
    · exact advance_bodyOf_fault i s
  · rw [step_of_halted hfv] at hstep
    cases hstep
    rfl

/-- Settles O2: a halted machine is presented nothing and starts no operation; reset clears `FV`. -/
theorem haltedBlockTakesNoOperation : Obligations.HaltedBlockTakesNoOperation := by
  unfold Obligations.HaltedBlockTakesNoOperation
  intro s hfv
  exact ⟨step_of_halted hfv, exec_of_halted hfv, fun d => congrArg FaultReg.fv (s.applyReset_fault d)⟩

/-- Settles O15: every operation has the shape of `State.perform`, which answers a next state whether the
machine is halted, a check fails or the body runs. -/
theorem everyOperationAnswersNextState : Obligations.EveryOperationAnswersNextState := by
  unfold Obligations.EveryOperationAnswersNextState
  intro i s
  rw [exec_eq_perform]
  exact s.perform_next (checkOf i s) (bodyOf i)

end Sys2Proof.Machine
end

section
/-! PROOFS. What a reset leaves (70_reset R250, R251), and how many events and bit-delays every operation
takes (R270): the counts add up along a trace, so that each operation's follow from those of its parts. -/

namespace Sys2Proof.Machine

/-! ### Reset -/

/-- Settles O11: reset writes all the elements that R250 lists, and `State.reset` is the one with argument 5. -/
theorem resetLeavesEveryElement : Obligations.ResetLeavesEveryElement := by
  unfold Obligations.ResetLeavesEveryElement
  refine ⟨fun s d => ?_, rfl⟩
  have hdig : ∀ p, (s.applyReset d).dig.get p = 0x00 := fun p => Five.get_all 0x00 p
  exact ⟨s.applyReset_stb d, s.applyReset_clk d, s.applyReset_dio d, s.applyReset_dir d, hdig,
    s.applyReset_ctrl d, s.applyReset_fsel d, s.applyReset_rsel d, s.applyReset_bitDelay d,
    s.applyReset_fault d, s.applyReset_pc d, s.applyReset_trace d⟩

/-! ### Event counts and bit-delays -/

/-- A trace of so many events that takes at least so many bit-delays (70_reset R270). -/
structure Takes (evs : List Event) (events delays : Nat) : Prop where
  length_eq : evs.length = events
  bitDelays_eq : bitDelays evs = delays

namespace Takes

theorem nil : Takes [] 0 0 := ⟨rfl, rfl⟩

theorem append {xs ys : List Event} {m n d e : Nat} (hxs : Takes xs m d) (hys : Takes ys n e) :
    Takes (xs ++ ys) (m + n) (d + e) where
  length_eq := by rw [List.length_append, hxs.length_eq, hys.length_eq]
  bitDelays_eq := by rw [bitDelays_append, hxs.bitDelays_eq, hys.bitDelays_eq]

theorem flatMap {α : Type} {f : α → List Event} {n d : Nat} (hf : ∀ a, Takes (f a) n d) (l : List α) :
    Takes (l.flatMap f) (n * l.length) (d * l.length) := by
  induction l with
  | nil => exact nil
  | cons a l ih =>
    rw [List.flatMap_cons, List.length_cons, Nat.mul_succ, Nat.mul_succ, Nat.add_comm, Nat.add_comm _ d]
    exact (hf a).append ih

/-! #### The operations' events -/

theorem beginEvents : Takes beginEvents 2 1 := ⟨rfl, rfl⟩

theorem endEvents : Takes endEvents 2 1 := ⟨rfl, rfl⟩

theorem readSlotEvents (b : Level) : Takes (readSlotEvents b) 5 2 := ⟨rfl, rfl⟩

theorem writeEvents {n : Nat} (v : BitVec n) : Takes (writeEvents v) (5 * n + 1) (2 * n + 1) where
  length_eq := by simp [Machine.writeEvents, slotEvents, List.length_flatMap, Nat.mul_comm]
  bitDelays_eq := bitDelays_writeEvents v

/-- Eight read slots between the two turns of the line, and no settle wait (40_transport R112). -/
theorem readEvents (b : Nat → Level) : Takes (readEvents b) 42 16 := by
  have hmode (m : Dir) : Takes [.mode m] 1 0 := ⟨rfl, rfl⟩
  exact ((hmode .inPu).append (flatMap (fun i => readSlotEvents (b i)) _)).append (hmode .out)

theorem commandEvents (b : Byte) : Takes (commandEvents b) 45 19 :=
  (beginEvents.append (writeEvents b)).append endEvents

/-- Three commands, and the address command with the seven grid words (42_sequencer R182). -/
theorem refreshEvents (m : Seven Word) (c : Byte) : Takes (refreshEvents m c) 747 307 := by
  have hwords : Takes (m.toList.flatMap fun w => Machine.writeEvents w) (81 * 7) (33 * 7) :=
    flatMap (fun w : Word => writeEvents w) m.toList
  have hmatrix := ((beginEvents.append (writeEvents (0xC0 : Byte))).append hwords).append endEvents
  exact (((commandEvents 0x40).append hmatrix).append (commandEvents 0x03)).append (commandEvents c)

theorem keyReadEvents (b : Nat → Level) : Takes (keyReadEvents b) 255 99 :=
  ((beginEvents.append (writeEvents _)).append (flatMap (fun _ => readEvents _) _)).append endEvents

/-- The table of 70_reset R270. -/
theorem eventsOf (i : Instr) (s : State) : Takes (eventsOf i s) (eventCount i) (delayCount i) :=
  match i with
  | .beginTxn => beginEvents
  | .endTxn => endEvents
  | .wr8 _ | .dm6g12s | .dm7g11s | .dataWriteInc | .dataRead | .dataWriteFixed | .displayControl _
  | .addressSet => writeEvents _
  | .wr16 _ => writeEvents _
  | .rd8 => readEvents _
  | .digit _ _ | .digits _ _ | .seg _ _ | .segs _ _ | .clear => refreshEvents _ _
  | .getbuttons => keyReadEvents _
  | .setbright _ _ | .setfont _ | .setfilter _ | .font _ _ | .remap _ _ | .keydecode _ => nil

end Takes

/-- Settles O18: a faulting operation appends nothing, and a completed one its `eventsOf`, which take what
the table gives. -/
theorem operationsTakeTheirEventsAndDelays : Obligations.OperationsTakeTheirEventsAndDelays := by
  unfold Obligations.OperationsTakeTheirEventsAndDelays
  intro i s t hready hexec
  obtain ⟨c, -, rfl⟩ | ⟨-, rfl⟩ := exec_cases_of_ready hready hexec
  · exact ⟨[], (List.append_nil _).symm, nofun, fun _ => rfl⟩
  · have htakes := Takes.eventsOf i s
    have hfv : (bodyOf i s).advance.fault.fv = false :=
      (congrArg FaultReg.fv (advance_bodyOf_fault i s)).trans hready
    exact ⟨eventsOf i s, bodyOf_trace i s, fun _ => ⟨htakes.length_eq, htakes.bitDelays_eq⟩,
      fun hfault => absurd (hfv.symm.trans hfault) Bool.false_ne_true⟩

end Sys2Proof.Machine
end
